-- ==== Sys2Proof/Word.lean ====
section
/-! DEFINITION. The machine's basic widths (spec/00_scope.md R5, R7, R8): bytes, 16-bit words, and the index types of the
register file, the user-flag bank, the call stack and the keypad. All values are unsigned (R7). -/

namespace Sys2Proof

/-- An 8-bit value: a general register, a timer, a user flag, a memory byte (R20, R26, R30). -/
abbrev Byte := BitVec 8

/-- A 16-bit value: an opcode, `pc`, `I`, a call-stack entry (R22, R23, R25, R90). -/
abbrev Word := BitVec 16

/-- A general-register index 0..15 (R20, R92). -/
abbrev Reg := Fin 16

/-- A key index 0..15 (`NUM_KEYS`, R276). -/
abbrev Key := Fin 16

/-- The down/up state of the sixteen keys (R34): `true` is down. -/
abbrev Keys := Vector Bool 16

/-- VF, the register that doubles as the flag (R8, R21). -/
abbrev vf : Reg := 15

end Sys2Proof
end

