-- ==== Sys2Proof/Syntax.lean ====
section
/-! DEFINITION. The instructions: one constructor per row of spec/opcode_table.json (spec/30_encoding.md R96), with the fields of
the row's format (R91, R92) as operands. The machine never sees an opcode's bits. -/

namespace Sys2Proof

/-- The 37 instructions of R96, in the table's order. -/
inductive Instr where
  /-- 00E0 `CLS` (R230). -/
  | cls
  /-- 00EE `RET` (R150). -/
  | ret
  /-- 0NNN `JMP0 nnn` (R151); `nnn` is neither 0x0E0 nor 0x0EE. -/
  | jmp0 (nnn : BitVec 12)
  /-- 1NNN `JMP nnn` (R152). -/
  | jmp (nnn : BitVec 12)
  /-- 2NNN `CALL nnn` (R153). -/
  | call (nnn : BitVec 12)
  /-- 3XKK `SE Vx, kk` (R154). -/
  | seImm (x : Reg) (kk : Byte)
  /-- 4XKK `SNE Vx, kk` (R155). -/
  | sneImm (x : Reg) (kk : Byte)
  /-- 5XY0 `SE Vx, Vy` (R156). -/
  | seReg (x y : Reg)
  /-- 6XKK `LD Vx, kk` (R170). -/
  | ldImm (x : Reg) (kk : Byte)
  /-- 7XKK `ADD Vx, kk` (R171). -/
  | addImm (x : Reg) (kk : Byte)
  /-- 8XY0 `LD Vx, Vy` (R172). -/
  | ldReg (x y : Reg)
  /-- 8XY1 `OR Vx, Vy` (R173). -/
  | orReg (x y : Reg)
  /-- 8XY2 `AND Vx, Vy` (R174). -/
  | andReg (x y : Reg)
  /-- 8XY3 `XOR Vx, Vy` (R175). -/
  | xorReg (x y : Reg)
  /-- 8XY4 `ADD Vx, Vy` (R176). -/
  | addReg (x y : Reg)
  /-- 8XY5 `SUB Vx, Vy` (R177). -/
  | subReg (x y : Reg)
  /-- 8XY6 `SHR Vx` (R178); the `y` field is kept and has no effect (R95; log entry 15). -/
  | shr (x y : Reg)
  /-- 8XY7 `SUBN Vx, Vy` (R179). -/
  | subnReg (x y : Reg)
  /-- 8XYE `SHL Vx` (R180); the `y` field is kept and has no effect (R95; log entry 15). -/
  | shl (x y : Reg)
  /-- 9XY0 `SNE Vx, Vy` (R157). -/
  | sneReg (x y : Reg)
  /-- ANNN `LD I, nnn` (R200). -/
  | ldI (nnn : BitVec 12)
  /-- BNNN `JMP V0, nnn` (R158). -/
  | jmpV0 (nnn : BitVec 12)
  /-- CXKK `RND Vx, kk` (R223). -/
  | rnd (x : Reg) (kk : Byte)
  /-- DXYN `DRW Vx, Vy, n` (R231). -/
  | drw (x y : Reg) (n : BitVec 4)
  /-- EX9E `SKP Vx` (R232). -/
  | skp (x : Reg)
  /-- EXA1 `SKNP Vx` (R233). -/
  | sknp (x : Reg)
  /-- FX07 `LD Vx, DT` (R220). -/
  | ldVxDt (x : Reg)
  /-- FX0A `LD Vx, K` (R234). -/
  | ldVxKey (x : Reg)
  /-- FX15 `LD DT, Vx` (R221). -/
  | ldDtVx (x : Reg)
  /-- FX18 `LD ST, Vx` (R222). -/
  | ldStVx (x : Reg)
  /-- FX1E `ADD I, Vx` (R201). -/
  | addI (x : Reg)
  /-- FX29 `LD F, Vx` (R202). -/
  | ldFont (x : Reg)
  /-- FX33 `LD B, Vx` (R203). -/
  | ldBcd (x : Reg)
  /-- FX55 `LD [I], Vx` (R204). -/
  | storeRegs (x : Reg)
  /-- FX65 `LD Vx, [I]` (R205). -/
  | loadRegs (x : Reg)
  /-- FX75 `LD R, Vx` (R206). -/
  | saveFlags (x : Reg)
  /-- FX85 `LD Vx, R` (R207). -/
  | restoreFlags (x : Reg)
  deriving DecidableEq, Repr

end Sys2Proof
end

