-- ==== Sys2Proof/WellFormed.lean ====
section
/-! DEFINITION. When an instruction term stands for an opcode of the table. The operand types already bound every field; the
one condition left is that 0x00E0 and 0x00EE are `CLS` and `RET`, never `JMP0` (spec/30_encoding.md R94, R96 rows 1 to 3). -/

namespace Sys2Proof

/-- The targets `JMP0` cannot name (R151): the words are `CLS` and `RET`. -/
def jmp0Target (nnn : BitVec 12) : Bool := nnn != 0x0E0#12 && nnn != 0x0EE#12

/-- The instruction is one the encoding can express. -/
def Instr.wellFormed : Instr → Bool
  | .cls => true
  | .ret => true
  | .jmp0 nnn => jmp0Target nnn
  | .jmp _ => true
  | .call _ => true
  | .seImm _ _ => true
  | .sneImm _ _ => true
  | .seReg _ _ => true
  | .ldImm _ _ => true
  | .addImm _ _ => true
  | .ldReg _ _ => true
  | .orReg _ _ => true
  | .andReg _ _ => true
  | .xorReg _ _ => true
  | .addReg _ _ => true
  | .subReg _ _ => true
  | .shr _ _ => true
  | .subnReg _ _ => true
  | .shl _ _ => true
  | .sneReg _ _ => true
  | .ldI _ => true
  | .jmpV0 _ => true
  | .rnd _ _ => true
  | .drw _ _ _ => true
  | .skp _ => true
  | .sknp _ => true
  | .ldVxDt _ => true
  | .ldVxKey _ => true
  | .ldDtVx _ => true
  | .ldStVx _ => true
  | .addI _ => true
  | .ldFont _ => true
  | .ldBcd _ => true
  | .storeRegs _ => true
  | .loadRegs _ => true
  | .saveFlags _ => true
  | .restoreFlags _ => true

end Sys2Proof
end

