-- ==== Sys2Proof/Decode.lean ====
section
/-! DEFINITION. Decoding and encoding, from spec/30_encoding.md: field extraction (R92), the decode procedure (R94), the opcode
table as masks and patterns (R96), and the encoder written from the formats (R91). Decoding is total and depends on the
opcode's bits only (R94). -/

namespace Sys2Proof

/-! ### Byte order (R62) -/

/-- The opcode of two consecutive bytes, first byte most significant (R62). -/
def wordOfBytes (hi lo : Byte) : Word := hi.setWidth 16 <<< 8 ||| lo.setWidth 16

/-- The byte at the lower address (R62). -/
def highByte (w : Word) : Byte := w.extractLsb' 8 8

/-- The byte at the higher address (R62). -/
def lowByte (w : Word) : Byte := w.extractLsb' 0 8

/-! ### Fields (R92) -/

/-- `op = opcode[15:12]`. -/
def fieldOp (w : Word) : BitVec 4 := w.extractLsb' 12 4

/-- `x = opcode[11:8]`, a register index. -/
def fieldX (w : Word) : Reg := (w.extractLsb' 8 4).toFin

/-- `y = opcode[7:4]`, a register index. -/
def fieldY (w : Word) : Reg := (w.extractLsb' 4 4).toFin

/-- `n = opcode[3:0]`. -/
def fieldN (w : Word) : BitVec 4 := w.extractLsb' 0 4

/-- `kk = fn = opcode[7:0]`. -/
def fieldKK (w : Word) : Byte := w.extractLsb' 0 8

/-- `nnn = opcode[11:0]`. -/
def fieldNNN (w : Word) : BitVec 12 := w.extractLsb' 0 12

/-! ### The decoder (R94) -/

/-- Why bytes are no instruction. -/
inductive DecodeError where
  /-- The opcode selects no row of R96 (R97). -/
  | illegalOpcode (w : Word)
  /-- Fewer than the two bytes of an instruction (R90). -/
  | truncated
  deriving DecidableEq, Repr

/-- Group 0 (R94 step 1): two fixed words, every other one is `JMP0`. -/
def decodeGroup0 (w : Word) : Instr :=
  if w = 0x00E0#16 then .cls
  else if w = 0x00EE#16 then .ret
  else .jmp0 (fieldNNN w)

/-- Group 8 (R94 step 4): selected by `n`. -/
def decodeGroup8 (w : Word) : Except DecodeError Instr :=
  let x := fieldX w
  let y := fieldY w
  let n := fieldN w
  if n = 0x0#4 then .ok (.ldReg x y)
  else if n = 0x1#4 then .ok (.orReg x y)
  else if n = 0x2#4 then .ok (.andReg x y)
  else if n = 0x3#4 then .ok (.xorReg x y)
  else if n = 0x4#4 then .ok (.addReg x y)
  else if n = 0x5#4 then .ok (.subReg x y)
  else if n = 0x6#4 then .ok (.shr x y)
  else if n = 0x7#4 then .ok (.subnReg x y)
  else if n = 0xE#4 then .ok (.shl x y)
  else .error (.illegalOpcode w)

/-- Group E (R94 step 5): selected by `fn`. -/
def decodeGroupE (w : Word) : Except DecodeError Instr :=
  let fn := fieldKK w
  if fn = 0x9E#8 then .ok (.skp (fieldX w))
  else if fn = 0xA1#8 then .ok (.sknp (fieldX w))
  else .error (.illegalOpcode w)

/-- Group F (R94 step 6): selected by `fn`. -/
def decodeGroupF (w : Word) : Except DecodeError Instr :=
  let x := fieldX w
  let fn := fieldKK w
  if fn = 0x07#8 then .ok (.ldVxDt x)
  else if fn = 0x0A#8 then .ok (.ldVxKey x)
  else if fn = 0x15#8 then .ok (.ldDtVx x)
  else if fn = 0x18#8 then .ok (.ldStVx x)
  else if fn = 0x1E#8 then .ok (.addI x)
  else if fn = 0x29#8 then .ok (.ldFont x)
  else if fn = 0x33#8 then .ok (.ldBcd x)
  else if fn = 0x55#8 then .ok (.storeRegs x)
  else if fn = 0x65#8 then .ok (.loadRegs x)
  else if fn = 0x75#8 then .ok (.saveFlags x)
  else if fn = 0x85#8 then .ok (.restoreFlags x)
  else .error (.illegalOpcode w)

/-- The decode procedure of R94: by the high nibble first, then as the group needs. -/
def decodeWord (w : Word) : Except DecodeError Instr :=
  let op := fieldOp w
  if op = 0x0#4 then .ok (decodeGroup0 w)
  else if op = 0x1#4 then .ok (.jmp (fieldNNN w))
  else if op = 0x2#4 then .ok (.call (fieldNNN w))
  else if op = 0x3#4 then .ok (.seImm (fieldX w) (fieldKK w))
  else if op = 0x4#4 then .ok (.sneImm (fieldX w) (fieldKK w))
  else if op = 0x5#4 then
    if fieldN w = 0x0#4 then .ok (.seReg (fieldX w) (fieldY w)) else .error (.illegalOpcode w)
  else if op = 0x6#4 then .ok (.ldImm (fieldX w) (fieldKK w))
  else if op = 0x7#4 then .ok (.addImm (fieldX w) (fieldKK w))
  else if op = 0x8#4 then decodeGroup8 w
  else if op = 0x9#4 then
    if fieldN w = 0x0#4 then .ok (.sneReg (fieldX w) (fieldY w)) else .error (.illegalOpcode w)
  else if op = 0xA#4 then .ok (.ldI (fieldNNN w))
  else if op = 0xB#4 then .ok (.jmpV0 (fieldNNN w))
  else if op = 0xC#4 then .ok (.rnd (fieldX w) (fieldKK w))
  else if op = 0xD#4 then .ok (.drw (fieldX w) (fieldY w) (fieldN w))
  else if op = 0xE#4 then decodeGroupE w
  else decodeGroupF w

/-- Decoding a byte stream: the instruction of the first two bytes and the bytes after it (R62, R90). -/
def decode : List Byte → Except DecodeError (Instr × List Byte)
  | hi :: lo :: rest =>
    match decodeWord (wordOfBytes hi lo) with
    | .ok i => .ok (i, rest)
    | .error e => .error e
  | [_] => .error .truncated
  | [] => .error .truncated

/-! ### The encoder (R91, R96) -/

/-- The four bits of a register field. -/
def regBits (x : Reg) : BitVec 4 := BitVec.ofFin (w := 4) x

/-- Format `NNN`: `op` in bits 15:12, `nnn` in bits 11:0. -/
def packNNN (op : BitVec 4) (nnn : BitVec 12) : Word := op.setWidth 16 <<< 12 ||| nnn.setWidth 16

/-- Formats `XKK` and `XFN`: `op` in bits 15:12, `x` in 11:8, `kk` or `fn` in 7:0. -/
def packXKK (op : BitVec 4) (x : Reg) (kk : Byte) : Word :=
  op.setWidth 16 <<< 12 ||| (regBits x).setWidth 16 <<< 8 ||| kk.setWidth 16

/-- Format `XYN`: `op` in bits 15:12, `x` in 11:8, `y` in 7:4, `n` in 3:0. -/
def packXYN (op : BitVec 4) (x y : Reg) (n : BitVec 4) : Word :=
  op.setWidth 16 <<< 12 ||| (regBits x).setWidth 16 <<< 8 ||| (regBits y).setWidth 16 <<< 4 ||| n.setWidth 16

/-- The opcode of an instruction: the formats of R91 with the fixed digits of R96's patterns. -/
def encode : Instr → Word
  | .cls => 0x00E0#16
  | .ret => 0x00EE#16
  | .jmp0 nnn => packNNN 0x0#4 nnn
  | .jmp nnn => packNNN 0x1#4 nnn
  | .call nnn => packNNN 0x2#4 nnn
  | .seImm x kk => packXKK 0x3#4 x kk
  | .sneImm x kk => packXKK 0x4#4 x kk
  | .seReg x y => packXYN 0x5#4 x y 0x0#4
  | .ldImm x kk => packXKK 0x6#4 x kk
  | .addImm x kk => packXKK 0x7#4 x kk
  | .ldReg x y => packXYN 0x8#4 x y 0x0#4
  | .orReg x y => packXYN 0x8#4 x y 0x1#4
  | .andReg x y => packXYN 0x8#4 x y 0x2#4
  | .xorReg x y => packXYN 0x8#4 x y 0x3#4
  | .addReg x y => packXYN 0x8#4 x y 0x4#4
  | .subReg x y => packXYN 0x8#4 x y 0x5#4
  | .shr x y => packXYN 0x8#4 x y 0x6#4
  | .subnReg x y => packXYN 0x8#4 x y 0x7#4
  | .shl x y => packXYN 0x8#4 x y 0xE#4
  | .sneReg x y => packXYN 0x9#4 x y 0x0#4
  | .ldI nnn => packNNN 0xA#4 nnn
  | .jmpV0 nnn => packNNN 0xB#4 nnn
  | .rnd x kk => packXKK 0xC#4 x kk
  | .drw x y n => packXYN 0xD#4 x y n
  | .skp x => packXKK 0xE#4 x 0x9E#8
  | .sknp x => packXKK 0xE#4 x 0xA1#8
  | .ldVxDt x => packXKK 0xF#4 x 0x07#8
  | .ldVxKey x => packXKK 0xF#4 x 0x0A#8
  | .ldDtVx x => packXKK 0xF#4 x 0x15#8
  | .ldStVx x => packXKK 0xF#4 x 0x18#8
  | .addI x => packXKK 0xF#4 x 0x1E#8
  | .ldFont x => packXKK 0xF#4 x 0x29#8
  | .ldBcd x => packXKK 0xF#4 x 0x33#8
  | .storeRegs x => packXKK 0xF#4 x 0x55#8
  | .loadRegs x => packXKK 0xF#4 x 0x65#8
  | .saveFlags x => packXKK 0xF#4 x 0x75#8
  | .restoreFlags x => packXKK 0xF#4 x 0x85#8

/-- The bytes of an instruction as memory holds them (R62, R90). -/
def encodeBytes (i : Instr) : List Byte := [highByte (encode i), lowByte (encode i)]

/-! ### The opcode table (R96) -/

/-- The row of R96 (1 to 37) an instruction stands in. -/
def rowOf : Instr → Nat
  | .cls => 1 | .ret => 2 | .jmp0 _ => 3 | .jmp _ => 4 | .call _ => 5
  | .seImm _ _ => 6 | .sneImm _ _ => 7 | .seReg _ _ => 8 | .ldImm _ _ => 9 | .addImm _ _ => 10
  | .ldReg _ _ => 11 | .orReg _ _ => 12 | .andReg _ _ => 13 | .xorReg _ _ => 14 | .addReg _ _ => 15
  | .subReg _ _ => 16 | .shr _ _ => 17 | .subnReg _ _ => 18 | .shl _ _ => 19 | .sneReg _ _ => 20
  | .ldI _ => 21 | .jmpV0 _ => 22 | .rnd _ _ => 23 | .drw _ _ _ => 24 | .skp _ => 25 | .sknp _ => 26
  | .ldVxDt _ => 27 | .ldVxKey _ => 28 | .ldDtVx _ => 29 | .ldStVx _ => 30 | .addI _ => 31
  | .ldFont _ => 32 | .ldBcd _ => 33 | .storeRegs _ => 34 | .loadRegs _ => 35 | .saveFlags _ => 36
  | .restoreFlags _ => 37

/-- The `mask` and `match` columns of R96, rows 1 to 37 in order. -/
def opcodeRows : List (Word × Word) :=
  [(0xFFFF#16, 0x00E0#16), (0xFFFF#16, 0x00EE#16), (0xF000#16, 0x0000#16), (0xF000#16, 0x1000#16), (0xF000#16, 0x2000#16),
   (0xF000#16, 0x3000#16), (0xF000#16, 0x4000#16), (0xF00F#16, 0x5000#16), (0xF000#16, 0x6000#16), (0xF000#16, 0x7000#16)] ++
  [(0xF00F#16, 0x8000#16), (0xF00F#16, 0x8001#16), (0xF00F#16, 0x8002#16), (0xF00F#16, 0x8003#16), (0xF00F#16, 0x8004#16),
   (0xF00F#16, 0x8005#16), (0xF00F#16, 0x8006#16), (0xF00F#16, 0x8007#16), (0xF00F#16, 0x800E#16), (0xF00F#16, 0x9000#16)] ++
  [(0xF000#16, 0xA000#16), (0xF000#16, 0xB000#16), (0xF000#16, 0xC000#16), (0xF000#16, 0xD000#16), (0xF0FF#16, 0xE09E#16),
   (0xF0FF#16, 0xE0A1#16), (0xF0FF#16, 0xF007#16), (0xF0FF#16, 0xF00A#16), (0xF0FF#16, 0xF015#16), (0xF0FF#16, 0xF018#16)] ++
  [(0xF0FF#16, 0xF01E#16), (0xF0FF#16, 0xF029#16), (0xF0FF#16, 0xF033#16), (0xF0FF#16, 0xF055#16), (0xF0FF#16, 0xF065#16),
   (0xF0FF#16, 0xF075#16), (0xF0FF#16, 0xF085#16)]

/-- An opcode selects a row when `opcode AND mask = match` (R96). -/
def rowMatches (w : Word) (row : Word × Word) : Bool := w &&& row.1 == row.2

/-- The row an opcode selects: the first that matches, so rows 1 and 2 win over row 3 (R96); `none` is illegal (R97). -/
def selectedRow (w : Word) : Option Nat := (opcodeRows.findIdx? (rowMatches w)).map (· + 1)

/-! ### The host's view -/

/-- The instruction the decoder reads from the instruction word whose bits are `w`, bit 0 the least significant bit of the
one 16-bit word (R90): the word is laid out big-endian (R62) and given to `decode`. -/
def decodeTableWord (nbits w : Nat) : Option Instr :=
  let word := BitVec.ofNat 16 (w % 2 ^ nbits)
  match decode [highByte word, lowByte word] with
  | .ok (i, _) => some i
  | .error _ => none

end Sys2Proof
end

