-- ==== Sys2Proof/Config.lean ====
section
/-! DEFINITION. What an implementation fixes (spec/00_scope.md R5) and the free values the spec leaves open: the answers of the
external collaborators (R10, R132) and the state a fatal halt leaves (R257). The two free values are constants with no body. -/

namespace Sys2Proof

/-- `TIMER_MODE` (R5, R265). -/
inductive TimerMode where
  /-- The delay timer counts completed steps, the sound timer does not count (R266, R267). -/
  | perCycle
  /-- Both timers count 60 Hz ticks (R268). -/
  | tick60
  deriving DecidableEq, Repr, Inhabited

/-- The configuration parameters (R5, R29, R60): fixed at instantiation, changed by no step.
DESIGN CHOICE (log entry 1, safe): they stand in the state so that every statement holds for both modes, every bound and every
memory size. -/
structure Params where
  /-- `TIMER_MODE`, default `PerCycle` (R5). -/
  timerMode : TimerMode
  /-- `I_OVERFLOW_BOUND`, default 0xFFFF (R5, R201). -/
  iOverflowBound : Nat
  /-- `MEM_SIZE`, default 0xFFF: the addresses are 0 to `MEM_SIZE - 1` (R5, R60; log entry 11). -/
  memSize : Nat
  deriving DecidableEq, Repr

/-- The defaults of R5. -/
def Params.default : Params := { timerMode := .perCycle, iOverflowBound := 0xFFFF, memSize := 0xFFF }

/-- The answer of `Poll()` (R272): the source's `Some(Quit)` or `None`. -/
inductive PollAnswer where
  /-- `Quit`. -/
  | quit
  /-- `Continue`. -/
  | goOn
  deriving DecidableEq, Repr, Inhabited

/-- The environment's answers to one step (R10, R132). Each is an input of the step under no law (R272, R277, R278, R280, R268). -/
structure Inputs where
  /-- `Poll()` (R272). -/
  poll : PollAnswer
  /-- `RandomByte()` (R280). -/
  randomByte : Byte
  /-- The key state now: `KeyDown` (R277) and the snapshot of a key wait that begins (R278). -/
  keys : Keys
  /-- The key states the polls of a key wait see during this step, in order (R278): none of them need differ from the snapshot. -/
  keyPolls : List Keys
  /-- `Ticks()` (R268), used only in `Tick60` mode. -/
  ticks : Nat
  deriving DecidableEq, Repr, Inhabited

/-- What stands in the engine and on the display after a fatal halt (R257: unspecified). The memory is any list of cells. -/
structure Residue where
  v : Vector Byte 16
  i : Word
  pc : Word
  sp : Fin 17
  stack : Vector Word 16
  dt : Byte
  st : Byte
  uf : Vector Byte 8
  cells : List Host.Cell
  disp : Vector (Vector Bool 64) 32
  deriving DecidableEq, Repr, Inhabited

/-- FREE VALUE (log entry 2): the environment's answers to the step with this clock count, where none are prescribed.
No body: nothing can evaluate it (R280, R277, R272, R268: values under no law). -/
opaque Config.inputs : Nat → Inputs

/-- FREE VALUE (log entry 3): the state other than `run` and `halt` that a fatal halt at this clock count leaves (R257). -/
opaque Config.afterHalt : Nat → Residue

/-- `PROGRAM_ORIGIN` = `RESET_PC` = 0x200 (R5, R40). -/
abbrev Config.programOrigin : Nat := 0x200

/-- `MAX_ROM` = `MEM_SIZE - PROGRAM_ORIGIN`, 3583 bytes by default (R5, R301). -/
def Params.maxRom (p : Params) : Nat := p.memSize - Config.programOrigin

/-- `FONT_BASE` = 0x50 (R5, R61). -/
abbrev Config.fontBase : Nat := 0x50

/-- `GLYPH_BYTES` = 5 (R5). -/
abbrev Config.glyphBytes : Nat := 5

/-- `STACK_DEPTH` = 16 (R5). -/
abbrev Config.stackDepth : Nat := 16

end Sys2Proof
end

