-- ==== Sys2Proof/Machine/State.lean ====
section
/-! DEFINITION. The machine's state as plain data (spec/10_state.md R20 to R36), the reasons a step can stop, and the state after
reset (R40 to R47). Everything the spec names is a field: the register file, the call stack, memory, the run state and the halt
record, the display grid and the blocked key wait. `params`, `script` and `clock` are the model's own (log entries 1, 2). -/

namespace Sys2Proof.Machine

/-- Memory: the bytes that differ from the reset contents, by strictly rising address (log entry 9). -/
abbrev Memory := List Host.Cell

/-- The Display Surface's grid: `DISP[r][c]`, row `r` in 0..31, column `c` in 0..63, `true` is on (R33). -/
abbrev Display := Vector (Vector Bool 64) 32

/-- The five reasons of `Halted(reason)` (R31, R250). -/
inductive HaltReason where
  /-- The host's quit request at the poll phase (R259). -/
  | userQuit
  /-- The fetched opcode selects no row of the table (R251). -/
  | illegalOpcode
  /-- A memory access outside 0..MEM_SIZE-1 (R252). -/
  | addressOutOfRange
  /-- `CALL` with SP = 16 (R253). -/
  | stackOverflow
  /-- `RET` with SP = 0 (R254). -/
  | stackUnderflow
  deriving DecidableEq, Repr

/-- The run state (R31). -/
inductive Run where
  | running
  | halted (reason : HaltReason)
  deriving DecidableEq, Repr

/-- The halt record (R32, R255). -/
structure HaltRecord where
  /-- The numeric code of the reason (R250). -/
  cause : Nat
  /-- The address the instruction was, or would have been, fetched from. -/
  instrAddr : Word
  /-- The fetched word, where one was fetched. -/
  opcode : Option Word
  /-- The lowest out-of-range address, for `AddressOutOfRange`. -/
  badAddr : Option Nat
  deriving DecidableEq, Repr

/-- A blocked `LD Vx, K` (R35): the destination and the key states captured when the instruction began. -/
structure KeyWait where
  x : Reg
  snapshot : Keys
  deriving DecidableEq, Repr

/-- The state of the machine. -/
structure State where
  /-- `V[0]`..`V[15]` (R20). -/
  v : Vector Byte 16
  /-- The index register `I` (R22). -/
  i : Word
  /-- The program counter (R23). -/
  pc : Word
  /-- The stack pointer, 0..16: the index of the next free slot (R24). -/
  sp : Fin 17
  /-- `STACK[0]`..`STACK[15]` (R25). -/
  stack : Vector Word 16
  /-- The delay timer `DT` (R26). -/
  dt : Byte
  /-- The sound timer `ST` (R27). -/
  st : Byte
  /-- The user flags `UF[0]`..`UF[7]` (R28). -/
  uf : Vector Byte 8
  /-- `MEM` (R30). -/
  mem : Memory
  /-- The display grid `DISP` (R33). -/
  disp : Display
  /-- The run state (R31). -/
  run : Run
  /-- The halt record, absent while running (R32). -/
  halt : Option HaltRecord
  /-- The blocked key wait, absent outside one (R35). -/
  wait : Option KeyWait
  /-- The configuration parameters (R5, R29): no step changes them. -/
  params : Params
  /-- MODEL'S OWN (log entry 2): the environment's answers prescribed for the coming steps, next step first. -/
  script : List Inputs
  /-- MODEL'S OWN (log entry 2): counts steps and indexes the free answers. -/
  clock : Nat
  deriving DecidableEq, Repr

/-- Why a step stops with a fault: no step of this machine does. Every fatal condition of the spec is the transition to
`Halted` with a halt record (R256), which is a next state of the model (log entry 3). -/
inductive Fault
  deriving DecidableEq, Repr

/-- Why a step is refused. -/
inductive Refusal where
  /-- The instruction has no meaning yet. Raised by `exec` alone. Safe: nothing is claimed of the instruction. -/
  | notModelled (mnemonic : String)
  /-- `SKP Vx` or `SKNP Vx` with `V[x] >= 16`: the key is outside the Input contract and the spec says the step is refused, not
  masked and not answered (R279). Raised by `execSkp` and `execSknp`. Safe: the model stops where the spec gives no effect. -/
  | keyIndexOutOfRange (index : Byte)
  deriving DecidableEq, Repr

/-- The state right after reset, with the empty ROM (R40 to R47, R300): `pc` at 0x200, everything else zero or absent, no byte of
memory different from the reset contents, nothing prescribed for the environment. Values the source does not give: log entry 7. -/
def State.reset : State :=
  { v := Vector.replicate 16 0
    i := 0
    pc := 0x200
    sp := 0
    stack := Vector.replicate 16 0
    dt := 0
    st := 0
    uf := Vector.replicate 8 0
    mem := []
    disp := Vector.replicate 32 (Vector.replicate 64 false)
    run := .running
    halt := none
    wait := none
    params := Params.default
    script := []
    clock := 0 }

end Sys2Proof.Machine
end

