-- ==== Sys2Proof/Machine/Flags.lean ====
section
/-! DEFINITION. Every flag computation (spec/10_state.md R21, spec/42_load_alu.md R181). The one flag is VF; each rule's flag is a
byte 0 or 1 computed here and written by the instruction in the order of its effect cell (R127). -/

namespace Sys2Proof.Machine

/-- `1 if c else 0`. -/
def flagByte (c : Bool) : Byte := if c then 1 else 0

/-- Carry of an 8-bit addition: the untruncated sum exceeds 255 (R176, R181). -/
def carryFlag (a b : Byte) : Byte := flagByte (decide (a.toNat + b.toNat > 255))

/-- NOT borrow of `a - b`: `a >= b`, 1 on equality (R177, R179, R181). -/
def notBorrowFlag (a b : Byte) : Byte := flagByte (decide (a.toNat ≥ b.toNat))

/-- The bit a right shift by one shifts out (R178). -/
def lowBitFlag (a : Byte) : Byte := a &&& 1

/-- The bit a left shift by one shifts out (R180). -/
def highBitFlag (a : Byte) : Byte := a >>> 7

/-- Index overflow of `I + V[x]`: the untruncated sum exceeds `I_OVERFLOW_BOUND` (R201). -/
def indexOverflowFlag (bound : Nat) (i : Word) (b : Byte) : Byte := flagByte (decide (i.toNat + b.toNat > bound))

end Sys2Proof.Machine
end

