-- ==== Sys2Proof/Machine/Ops.lean ====
section
/-! DEFINITION. The named operations: registers, memory, call stack, display, keypad, the environment's answers, and the halt, which
is this machine's one way of taking an exception (spec/60_exceptions.md R256). -/

namespace Sys2Proof.Machine

/-! ### Registers (R8, R20 to R29) -/

/-- `V[x]`. -/
def State.reg (s : State) (x : Reg) : Byte := s.v[x.val]

/-- `V[x] <- b`. -/
def State.setReg (s : State) (x : Reg) (b : Byte) : State := { s with v := s.v.set x.val b }

/-- `I <- w`. -/
def State.setI (s : State) (w : Word) : State := { s with i := w }

/-- `pc <- w`. -/
def State.setPc (s : State) (w : Word) : State := { s with pc := w }

/-- `DT <- b`. -/
def State.setDt (s : State) (b : Byte) : State := { s with dt := b }

/-- `ST <- b`. -/
def State.setSt (s : State) (b : Byte) : State := { s with st := b }

/-- The general registers as a whole. -/
def State.setV (s : State) (v : Vector Byte 16) : State := { s with v := v }

/-- The user-flag bank as a whole. -/
def State.setUf (s : State) (uf : Vector Byte 8) : State := { s with uf := uf }

/-- The memory as a whole. -/
def State.setMem (s : State) (m : Memory) : State := { s with mem := m }

/-- The display grid as a whole. -/
def State.setDisp (s : State) (d : Display) : State := { s with disp := d }

/-- The blocked key wait (R35). -/
def State.setWait (s : State) (w : Option KeyWait) : State := { s with wait := w }

/-- `pc <- trunc_16(pc + 2)`: the fetch's advance and a taken skip (R123, R129). -/
def State.advancePc (s : State) : State := s.setPc (s.pc + 2)

/-- A conditional skip (R129). -/
def State.skipIf (s : State) (c : Bool) : State := s.setPc (if c then s.pc + 2 else s.pc)

/-- Overwrites the entries from index `k` on with the bytes of a list, in ascending order: the register-range loops of
R205, R206 and R207. An index past the end is dropped; no transfer of the spec has one. -/
def overwriteFrom {n : Nat} (v : Vector Byte n) (k : Nat) : List Byte → Vector Byte n
  | [] => v
  | b :: bs => overwriteFrom (v.setIfInBounds k b) (k + 1) bs

/-- The first `n` entries of a bank as a list, in ascending order (R204, R206, R207). -/
def firstEntries {n : Nat} (v : Vector Byte n) (count : Nat) : List Byte := v.toList.take count

/-! ### Memory (R9, R30, R43, R60 to R74) -/

/-- The 80 font bytes of R303, glyph by glyph (log entry 8). -/
def fontBytes : List Byte :=
  [0xF0, 0x90, 0x90, 0x90, 0xF0, 0x20, 0x60, 0x20, 0x20, 0x70] ++
  [0xF0, 0x10, 0xF0, 0x80, 0xF0, 0xF0, 0x10, 0xF0, 0x10, 0xF0] ++
  [0x90, 0x90, 0xF0, 0x10, 0x10, 0xF0, 0x80, 0xF0, 0x10, 0xF0] ++
  [0xF0, 0x80, 0xF0, 0x90, 0xF0, 0xF0, 0x10, 0x20, 0x40, 0x40] ++
  [0xF0, 0x90, 0xF0, 0x90, 0xF0, 0xF0, 0x90, 0xF0, 0x10, 0xF0] ++
  [0xF0, 0x90, 0xF0, 0x90, 0x90, 0xE0, 0x90, 0xE0, 0x90, 0xE0] ++
  [0xF0, 0x80, 0x80, 0x80, 0xF0, 0xE0, 0x90, 0x90, 0x90, 0xE0] ++
  [0xF0, 0x80, 0xF0, 0x80, 0xF0, 0xF0, 0x80, 0xF0, 0x80, 0x80]

/-- What an unlisted address reads as: the reset contents without a ROM (R43), the font at 0x50..0x9F and zero elsewhere
(log entries 7, 8, 9). -/
def resetByte (a : Nat) : Byte :=
  if Config.fontBase ≤ a then (fontBytes[a - Config.fontBase]?).getD 0 else 0

/-- The byte listed at an address, else the reset byte. -/
def Memory.lookup : Memory → Nat → Byte
  | [], a => resetByte a
  | (b, v) :: rest, a => if b = a then v else Memory.lookup rest a

/-- `MemRead(a, 1)` in a memory of `size` bytes: `none` is `AddressOutOfRange(a)` (R9, R66). -/
def Memory.read (size : Nat) (m : Memory) (a : Nat) : Option Byte :=
  if a < size then some (Memory.lookup m a) else none

/-- Puts a cell in front, unless it holds what an unlisted address reads as. -/
def Memory.cons (a : Nat) (b : Byte) (m : Memory) : Memory := if b = resetByte a then m else (a, b) :: m

/-- Sets one byte, keeping the canonical form. -/
def Memory.insert : Memory → Nat → Byte → Memory
  | [], a, b => Memory.cons a b []
  | (c, v) :: rest, a, b =>
    if a < c then Memory.cons a b ((c, v) :: rest)
    else if a = c then Memory.cons a b rest
    else (c, v) :: Memory.insert rest a b

/-- `MemWrite(a, 1, b)` in a memory of `size` bytes: `none` is `AddressOutOfRange(a)` (R9, R66). -/
def Memory.write (size : Nat) (m : Memory) (a : Nat) (b : Byte) : Option Memory :=
  if a < size then some (Memory.insert m a b) else none

/-- `n` byte reads at ascending addresses (R65, R67); `error` carries the first out-of-range address. -/
def Memory.readBytes (size : Nat) (m : Memory) : Nat → Nat → Except Nat (List Byte)
  | _, 0 => .ok []
  | a, n + 1 =>
    match Memory.read size m a with
    | none => .error a
    | some b =>
      match Memory.readBytes size m (a + 1) n with
      | .error e => .error e
      | .ok bs => .ok (b :: bs)

/-- Byte writes at ascending addresses (R65, R67); `error` carries the first out-of-range address. -/
def Memory.writeBytes (size : Nat) : Memory → Nat → List Byte → Except Nat Memory
  | m, _, [] => .ok m
  | m, a, b :: bs =>
    match Memory.write size m a b with
    | none => .error a
    | some m' => Memory.writeBytes size m' (a + 1) bs

/-- The cell is in the address space and differs from what an unlisted address reads as. -/
def cellOk (size : Nat) (c : Host.Cell) : Bool := decide (c.1 < size) && c.2 != resetByte c.1

/-- The canonical form: strictly rising addresses of the space, no cell that an unlisted address would read as. -/
def Memory.wf (size : Nat) : Memory → Bool
  | [] => true
  | c :: rest => cellOk size c && rest.all (fun d => decide (c.1 < d.1)) && Memory.wf size rest

/-- A memory from any list of cells: each in-range cell is written in turn, the others are dropped. -/
def Memory.ofCells (size : Nat) (cells : List Host.Cell) : Memory :=
  cells.foldl (fun m c => (Memory.write size m c.1 c.2).getD m) []

/-- The opcode in memory at an address: two bytes, each checked in turn, the first most significant (R9, R62, R123). -/
def Memory.readWord (size : Nat) (m : Memory) (a : Nat) : Except Nat Word :=
  match Memory.read size m a with
  | none => .error a
  | some hi =>
    match Memory.read size m (a + 1) with
    | none => .error (a + 1)
    | some lo => .ok (wordOfBytes hi lo)

/-- The byte of this state's memory at an address, in a memory of its `MEM_SIZE` bytes (R60). -/
def State.readByte (s : State) (a : Nat) : Option Byte := Memory.read s.params.memSize s.mem a

/-! ### The call stack (R24, R25) -/

/-- Pushes an address; `none` when SP = 16 (R25, R153). -/
def State.push (s : State) (w : Word) : Option State :=
  if h : s.sp.val < 16 then
    some { s with stack := s.stack.set s.sp.val w, sp := ⟨s.sp.val + 1, by omega⟩ }
  else none

/-- Pops an address: SP goes down, then the entry at SP is read and stays where it is; `none` when SP = 0 (R25, R150). -/
def State.pop (s : State) : Option (Word × State) :=
  if h : 0 < s.sp.val then
    some (s.stack[s.sp.val - 1]'(by omega), { s with sp := ⟨s.sp.val - 1, by omega⟩ })
  else none

/-! ### Display (R33, R273, R274) -/

/-- `DISP[r][c]`. -/
def Display.pixel (d : Display) (r : Fin 32) (c : Fin 64) : Bool := (d[r.val])[c.val]

/-- `DISP[r][c] <- DISP[r][c] XOR 1`. -/
def Display.toggle (d : Display) (r : Fin 32) (c : Fin 64) : Display :=
  d.set r.val ((d[r.val]).set c.val (!(d[r.val])[c.val]))

/-- The blank grid (R273). -/
def Display.blank : Display := Vector.replicate 32 (Vector.replicate 64 false)

/-- The display row of sprite row `r` (R274). -/
def pixelRow (yc : Byte) (r : Nat) : Fin 32 := ⟨(yc.toNat + r) % 32, Nat.mod_lt _ (by decide)⟩

/-- The display column of sprite column `c` (R274). -/
def pixelCol (xc : Byte) (c : Nat) : Fin 64 := ⟨(xc.toNat + c) % 64, Nat.mod_lt _ (by decide)⟩

/-- The sprite bit at column `c`: bit 7 is column 0 (R274; log entry 17). -/
def spriteBit (b : Byte) (c : Nat) : Bool := b.getLsbD (7 - c)

/-- One set sprite bit: the collision flag is raised if the pixel is on, and the pixel is toggled (R274). -/
def drawPixel (r : Fin 32) (c : Fin 64) (acc : Display × Bool) : Display × Bool :=
  (Display.toggle acc.1 r c, acc.2 || Display.pixel acc.1 r c)

/-- The inner loop of R274 over the columns of one sprite byte. -/
def drawByte (xc yc : Byte) (r : Nat) (b : Byte) (acc : Display × Bool) : Display × Bool :=
  [0, 1, 2, 3, 4, 5, 6, 7].foldl
    (fun acc c => if spriteBit b c then drawPixel (pixelRow yc r) (pixelCol xc c) acc else acc) acc

/-- The outer loop of R274 over the sprite's bytes, from row `r` on. -/
def drawRows (xc yc : Byte) : Nat → List Byte → Display × Bool → Display × Bool
  | _, [], acc => acc
  | r, b :: bs, acc => drawRows xc yc (r + 1) bs (drawByte xc yc r b acc)

/-- `DisplayDraw(xc, yc, bytes)` on a grid: the new grid and the collision answer (R274; log entry 6). -/
def displayDraw (d : Display) (xc yc : Byte) (bytes : List Byte) : Display × Bool := drawRows xc yc 0 bytes (d, false)

/-! ### The environment's answers (R10, R132; log entry 2) -/

/-- The answers to this step: the prescribed ones, else free ones. -/
def State.inputs (s : State) : Inputs :=
  match s.script with
  | inp :: _ => inp
  | [] => Config.inputs s.clock

/-- This step's answers are used up. -/
def State.nextInputs (s : State) : State := { s with script := s.script.tail, clock := s.clock + 1 }

/-- `KeyDown(k)` for k in 0..15 (R277). -/
def State.keyDown (s : State) (k : Key) : Bool := (s.inputs.keys)[k.val]

/-- All key indices, lowest first. -/
def allKeys : List Key := [0, 1, 2, 3, 4, 5, 6, 7, 8, 9, 10, 11, 12, 13, 14, 15]

/-- The lowest key whose state differs between two key states (R278). -/
def lowestChange (snapshot now : Keys) : Option Key :=
  allKeys.find? (fun k => snapshot[k.val] != now[k.val])

/-- The key that ends a wait: the lowest changed key at the first poll at which any key differs (R234(c), R278). -/
def firstChange (snapshot : Keys) : List Keys → Option Key
  | [] => none
  | now :: later =>
    match lowestChange snapshot now with
    | some k => some k
    | none => firstChange snapshot later

/-- The wait loop of `LD Vx, K` over this step's polls (R234, R278): it ends with `V[x]` written, or the engine stays blocked with
the snapshot it took (R35; log entry 4). -/
def State.waitKey (s : State) (w : KeyWait) : State :=
  match firstChange w.snapshot s.inputs.keyPolls with
  | some k => (s.setWait none).setReg w.x (BitVec.ofNat 8 k.val)
  | none => s.setWait (some w)

/-! ### Halting (R250 to R257): the machine's one exception entry -/

/-- The `cause` number of a reason (R250; log entry 21). -/
def HaltReason.code : HaltReason → Nat
  | .userQuit => 1
  | .illegalOpcode => 2
  | .addressOutOfRange => 3
  | .stackOverflow => 4
  | .stackUnderflow => 5

/-- Halt entry after `UserQuit` (R122, R259): only `run` and `halt` change. -/
def State.quit (s : State) : State :=
  { s with
    run := .halted .userQuit
    halt := some { cause := HaltReason.userQuit.code, instrAddr := s.pc, opcode := none, badAddr := none } }

/-- A fatal halt (R256): `run` and `halt` are written and the step ends. Everything else the engine and the display hold is
unspecified from then on (R257): a free value (log entry 3). Nothing is left in flight (log entry 22). -/
def State.fatalHalt (s : State) (instrAddr : Word) (reason : HaltReason) (opcode : Option Word) (badAddr : Option Nat) :
    State :=
  let left := Config.afterHalt s.clock
  { s with
    v := left.v
    i := left.i
    pc := left.pc
    sp := left.sp
    stack := left.stack
    dt := left.dt
    st := left.st
    uf := left.uf
    mem := Memory.ofCells s.params.memSize left.cells
    disp := left.disp
    run := .halted reason
    halt := some { cause := reason.code, instrAddr := instrAddr, opcode := opcode, badAddr := badAddr }
    wait := none }

/-- `raise` during `Execute` (R9, R256): `pc` holds the post-fetch PC `ia + 2`, so the instruction's address is `pc - 2` (R251),
and its word is its encoding (log entry 14). -/
def State.raise (s : State) (i : Instr) (reason : HaltReason) (badAddr : Option Nat) : State :=
  s.fatalHalt (s.pc - 2) reason (some (encode i)) badAddr

/-- Stores bytes from an effective address on, for instruction `i`, or raises `AddressOutOfRange` (R203, R204, R252). -/
def State.storeBytes (s : State) (i : Instr) (a : Nat) (bs : List Byte) : State :=
  match Memory.writeBytes s.params.memSize s.mem a bs with
  | .ok m => s.setMem m
  | .error bad => s.raise i .addressOutOfRange (some bad)

end Sys2Proof.Machine
end

