-- ==== Sys2Proof/Machine/Cycle.lean ====
section
/-! DEFINITION. The phases of a step around `Execute` (spec/40_execution_cycle.md R120 to R132): the halted engine, the blocked key
wait, the poll, the fetch, the decode and the timer phase; and the placing of one instruction for the host. -/

namespace Sys2Proof.Machine

/-- The timer phase (R128, R266, R267, R268). -/
def State.timerPhase (s : State) : State :=
  match s.params.timerMode with
  | .perCycle => s.setDt (BitVec.ofNat 8 (s.dt.toNat - 1))
  | .tick60 =>
    (s.setDt (BitVec.ofNat 8 (s.dt.toNat - s.inputs.ticks))).setSt (BitVec.ofNat 8 (s.st.toNat - s.inputs.ticks))

/-- The end of a step after `Execute`: nothing in a step that halted (R131), no timer phase while a key wait is blocked
(R234(d)), else the timer phase; the step's inputs are then used up. -/
def State.endStep (s : State) : State :=
  match s.run with
  | .halted _ => s
  | .running =>
    match s.wait with
    | some _ => s.nextInputs
    | none => s.timerPhase.nextInputs

/-- The same for an outcome of `Execute`. -/
def endOutcome : Host.Outcome State Fault Refusal → Host.Outcome State Fault Refusal
  | .next s => .next s.endStep
  | .fault r => .fault r
  | .refused r => .refused r

/-- The fetch's read (R123): the opcode at `pc`, or the first out-of-range address. -/
def State.fetch (s : State) : Except Nat Word := Memory.readWord s.params.memSize s.mem s.pc.toNat

/-- What the phases before `Execute` lead to. -/
inductive Prepared where
  /-- The step ends here: halted already, quit, a fetch or decode fault, or a step of a blocked key wait. -/
  | done (s : State)
  /-- The instruction to execute and the state it runs on, `pc` at the post-fetch PC. -/
  | execute (i : Instr) (s : State)
  deriving DecidableEq, Repr

/-- Fetch and decode (R123, R124), with their faults (R251, R252, R255). -/
def State.fetchDecode (s : State) : Prepared :=
  match s.fetch with
  | .error bad => .done (s.fatalHalt s.pc .addressOutOfRange none (some bad))
  | .ok w =>
    match decodeWord w with
    | .error _ => .done (s.advancePc.fatalHalt s.pc .illegalOpcode (some w) none)
    | .ok i => .execute i s.advancePc

/-- The phases before `Execute`, in the order of R120 and R260. A step that finds the engine blocked in a key wait goes on with
the wait: no poll is consulted and nothing is fetched (R35, R234(d), (e)). -/
def State.prepare (s : State) : Prepared :=
  match s.run with
  | .halted _ => .done s
  | .running =>
    match s.wait with
    | some w => .done (s.waitKey w).endStep
    | none =>
      match s.inputs.poll with
      | .quit => .done s.quit
      | .goOn => s.fetchDecode

/-- One byte put into memory by the host, not by an instruction: dropped where there is no such address. -/
def State.pokeByte (s : State) (a : Nat) (b : Byte) : State :=
  s.setMem ((Memory.write s.params.memSize s.mem a b).getD s.mem)

/-- One instruction word placed at `pc`, big-endian (R62), and the engine made ready to fetch it: running, in no key wait, this
step's poll answered `Continue` (log entry 10). -/
def State.placeWord (s : State) (w : Word) : State :=
  let s1 := (s.pokeByte s.pc.toNat (highByte w)).pokeByte (s.pc.toNat + 1) (lowByte w)
  { s1 with
    run := .running
    halt := none
    wait := none
    script := { s.inputs with poll := .goOn } :: s.script.tail }

end Sys2Proof.Machine
end

