-- ==== Sys2Proof/Machine/Operands.lean ====
section
/-! DEFINITION. The operand forms: how fields and register contents become values, addresses and counts (spec/30_encoding.md R93,
spec/20_memory.md R67, spec/43_index_memory.md R202, R203, R206). -/

namespace Sys2Proof.Machine

/-- `zext_16(nnn)` (R93). -/
def zextNNN (nnn : BitVec 12) : Word := nnn.setWidth 16

/-- `zext_16` of a byte (R7). -/
def zextByte (b : Byte) : Word := b.setWidth 16

/-- The effective address of the byte at offset `k` from `I`: a natural number, never reduced (R67, R208). -/
def State.effAddr (s : State) (k : Nat) : Nat := s.i.toNat + k

/-- The target of `JMP V0, nnn` (R158): the 16-bit sum, not masked to 12 bits. -/
def jumpV0Target (v0 : Byte) (nnn : BitVec 12) : Word := zextByte v0 + zextNNN nnn

/-- The address of a glyph (R202): five times the whole byte plus 0x50, in 16 bits. -/
def glyphAddr (b : Byte) : Word := zextByte b * 5 + BitVec.ofNat 16 Config.fontBase

/-- The three decimal digits of a byte, hundreds first (R203). -/
def bcdDigits (b : Byte) : List Byte :=
  [BitVec.ofNat 8 (b.toNat / 100), BitVec.ofNat 8 (b.toNat / 10 % 10), BitVec.ofNat 8 (b.toNat % 10)]

/-- How many registers a transfer of `V[0]..V[x]` moves (R204, R205). -/
def rangeCount (x : Reg) : Nat := x.val + 1

/-- How many registers a transfer of `V[0]..V[min(x,7)]` moves (R206, R207): `x` is the field, not the register's contents. -/
def flagCount (x : Reg) : Nat := min x.val 7 + 1

end Sys2Proof.Machine
end

