-- ==== Sys2Proof/Machine/ControlFlow.lean ====
section
/-! DEFINITION. The control-transfer instructions (spec/41_control_flow.md R150 to R159). Each runs with `pc` already at the
post-fetch PC `ia + 2` (R125). -/

namespace Sys2Proof.Machine

/-- `RET` (R150): `StackUnderflow` when SP = 0, else SP goes down and `pc` takes the popped entry. -/
def execRet (s : State) : Host.Outcome State Fault Refusal :=
  match s.pop with
  | none => .next (s.raise .ret .stackUnderflow none)
  | some (w, s') => .next (s'.setPc w)

/-- `JMP0 nnn` (R151). -/
def execJmp0 (nnn : BitVec 12) (s : State) : Host.Outcome State Fault Refusal := .next (s.setPc (zextNNN nnn))

/-- `JMP nnn` (R152). -/
def execJmp (nnn : BitVec 12) (s : State) : Host.Outcome State Fault Refusal := .next (s.setPc (zextNNN nnn))

/-- `CALL nnn` (R153): `StackOverflow` when SP = 16, else the post-fetch PC is pushed and `pc` takes the target. -/
def execCall (nnn : BitVec 12) (s : State) : Host.Outcome State Fault Refusal :=
  match s.push s.pc with
  | none => .next (s.raise (.call nnn) .stackOverflow none)
  | some s' => .next (s'.setPc (zextNNN nnn))

/-- `JMP V0, nnn` (R158). -/
def execJmpV0 (nnn : BitVec 12) (s : State) : Host.Outcome State Fault Refusal :=
  .next (s.setPc (jumpV0Target (s.reg 0) nnn))

/-- `SE Vx, kk` (R154). -/
def execSeImm (x : Reg) (kk : Byte) (s : State) : Host.Outcome State Fault Refusal :=
  .next (s.skipIf (s.reg x == kk))

/-- `SNE Vx, kk` (R155). -/
def execSneImm (x : Reg) (kk : Byte) (s : State) : Host.Outcome State Fault Refusal :=
  .next (s.skipIf (s.reg x != kk))

/-- `SE Vx, Vy` (R156). -/
def execSeReg (x y : Reg) (s : State) : Host.Outcome State Fault Refusal :=
  .next (s.skipIf (s.reg x == s.reg y))

/-- `SNE Vx, Vy` (R157). -/
def execSneReg (x y : Reg) (s : State) : Host.Outcome State Fault Refusal :=
  .next (s.skipIf (s.reg x != s.reg y))

end Sys2Proof.Machine
end

