-- ==== Sys2Proof/Machine/DisplayInput.lean ====
section
/-! DEFINITION. The display and keypad instructions (spec/45_display_input.md R230 to R234, with the device contracts of
spec/60_exceptions.md R270 to R279). -/

namespace Sys2Proof.Machine

/-- `CLS` (R230, R273). -/
def execCls (s : State) : Host.Outcome State Fault Refusal := .next (s.setDisp Display.blank)

/-- `DRW Vx, Vy, n` (R231): all sprite bytes are read before the display is called; VF is always written, last. -/
def execDrw (x y : Reg) (n : BitVec 4) (s : State) : Host.Outcome State Fault Refusal :=
  match Memory.readBytes s.params.memSize s.mem (s.effAddr 0) n.toNat with
  | .error bad => .next (s.raise (.drw x y n) .addressOutOfRange (some bad))
  | .ok bytes =>
    let drawn := displayDraw s.disp (s.reg x) (s.reg y) bytes
    .next ((s.setDisp drawn.1).setReg vf (flagByte drawn.2))

/-- `SKP Vx` (R232): refused for a key index of 16 or more (R279; log entry 5). -/
def execSkp (x : Reg) (s : State) : Host.Outcome State Fault Refusal :=
  if h : (s.reg x).toNat < 16 then .next (s.skipIf (s.keyDown ⟨(s.reg x).toNat, h⟩))
  else .refused (.keyIndexOutOfRange (s.reg x))

/-- `SKNP Vx` (R233): refused for a key index of 16 or more (R279; log entry 5). -/
def execSknp (x : Reg) (s : State) : Host.Outcome State Fault Refusal :=
  if h : (s.reg x).toNat < 16 then .next (s.skipIf (!s.keyDown ⟨(s.reg x).toNat, h⟩))
  else .refused (.keyIndexOutOfRange (s.reg x))

/-- `LD Vx, K` (R234): captures the key states and waits for a change; the wait can outlast this step (R35; log entry 4). -/
def execLdVxKey (x : Reg) (s : State) : Host.Outcome State Fault Refusal :=
  .next (s.waitKey { x := x, snapshot := s.inputs.keys })

end Sys2Proof.Machine
end

