-- ==== Sys2Proof/Machine/IndexMemory.lean ====
section
/-! DEFINITION. The index-register, memory and user-flag instructions (spec/43_index_memory.md R200 to R208). -/

namespace Sys2Proof.Machine

/-- `LD I, nnn` (R200). -/
def execLdI (nnn : BitVec 12) (s : State) : Host.Outcome State Fault Refusal := .next (s.setI (zextNNN nnn))

/-- `ADD I, Vx` (R201): the 16-bit sum, then VF takes the overflow of the untruncated one against `I_OVERFLOW_BOUND`. -/
def execAddI (x : Reg) (s : State) : Host.Outcome State Fault Refusal :=
  let flag := indexOverflowFlag s.params.iOverflowBound s.i (s.reg x)
  .next ((s.setI (s.i + zextByte (s.reg x))).setReg vf flag)

/-- `LD F, Vx` (R202). -/
def execLdFont (x : Reg) (s : State) : Host.Outcome State Fault Refusal := .next (s.setI (glyphAddr (s.reg x)))

/-- `LD B, Vx` (R203). -/
def execLdBcd (x : Reg) (s : State) : Host.Outcome State Fault Refusal :=
  .next (s.storeBytes (.ldBcd x) (s.effAddr 0) (bcdDigits (s.reg x)))

/-- `LD [I], Vx` (R204); `I` is unchanged. -/
def execStoreRegs (x : Reg) (s : State) : Host.Outcome State Fault Refusal :=
  .next (s.storeBytes (.storeRegs x) (s.effAddr 0) (firstEntries s.v (rangeCount x)))

/-- `LD Vx, [I]` (R205); `I` is unchanged. -/
def execLoadRegs (x : Reg) (s : State) : Host.Outcome State Fault Refusal :=
  match Memory.readBytes s.params.memSize s.mem (s.effAddr 0) (rangeCount x) with
  | .ok bs => .next (s.setV (overwriteFrom s.v 0 bs))
  | .error bad => .next (s.raise (.loadRegs x) .addressOutOfRange (some bad))

/-- `LD R, Vx` (R206). -/
def execSaveFlags (x : Reg) (s : State) : Host.Outcome State Fault Refusal :=
  .next (s.setUf (overwriteFrom s.uf 0 (firstEntries s.v (flagCount x))))

/-- `LD Vx, R` (R207). -/
def execRestoreFlags (x : Reg) (s : State) : Host.Outcome State Fault Refusal :=
  .next (s.setV (overwriteFrom s.v 0 (firstEntries s.uf (flagCount x))))

end Sys2Proof.Machine
end

