-- ==== Sys2Proof/Machine/LoadAlu.lean ====
section
/-! DEFINITION. The register load, arithmetic, logic and shift instructions (spec/42_load_alu.md R170 to R182). Assignments run in the
order of the effect cell, each reading the state the one before left, but where the cell says "(pre)" (R127; log entry 12). -/

namespace Sys2Proof.Machine

/-- `LD Vx, kk` (R170). -/
def execLdImm (x : Reg) (kk : Byte) (s : State) : Host.Outcome State Fault Refusal := .next (s.setReg x kk)

/-- `ADD Vx, kk` (R171): wraps, no flag. -/
def execAddImm (x : Reg) (kk : Byte) (s : State) : Host.Outcome State Fault Refusal := .next (s.setReg x (s.reg x + kk))

/-- `LD Vx, Vy` (R172). -/
def execLdReg (x y : Reg) (s : State) : Host.Outcome State Fault Refusal := .next (s.setReg x (s.reg y))

/-- `OR Vx, Vy` (R173). -/
def execOrReg (x y : Reg) (s : State) : Host.Outcome State Fault Refusal := .next (s.setReg x (s.reg x ||| s.reg y))

/-- `AND Vx, Vy` (R174). -/
def execAndReg (x y : Reg) (s : State) : Host.Outcome State Fault Refusal := .next (s.setReg x (s.reg x &&& s.reg y))

/-- `XOR Vx, Vy` (R175). -/
def execXorReg (x y : Reg) (s : State) : Host.Outcome State Fault Refusal := .next (s.setReg x (s.reg x ^^^ s.reg y))

/-- `ADD Vx, Vy` (R176): the truncated sum, then VF takes the carry of the untruncated one. -/
def execAddReg (x y : Reg) (s : State) : Host.Outcome State Fault Refusal :=
  let carry := carryFlag (s.reg x) (s.reg y)
  .next ((s.setReg x (s.reg x + s.reg y)).setReg vf carry)

/-- `SUB Vx, Vy` (R177): the difference, then VF compares `Vx(pre)` with `V[y]` as it then stands. -/
def execSubReg (x y : Reg) (s : State) : Host.Outcome State Fault Refusal :=
  let a := s.reg x
  let s1 := s.setReg x (a - s.reg y)
  .next (s1.setReg vf (notBorrowFlag a (s1.reg y)))

/-- `SHR Vx` (R178): VF takes bit 0, then `V[x]`, as it then stands, is shifted; `y` is ignored (R95). -/
def execShr (x : Reg) (s : State) : Host.Outcome State Fault Refusal :=
  let s1 := s.setReg vf (lowBitFlag (s.reg x))
  .next (s1.setReg x (s1.reg x >>> 1))

/-- `SUBN Vx, Vy` (R179): the reverse difference, then VF compares `V[y]` as it then stands with `Vx(pre)`. -/
def execSubnReg (x y : Reg) (s : State) : Host.Outcome State Fault Refusal :=
  let a := s.reg x
  let s1 := s.setReg x (s.reg y - a)
  .next (s1.setReg vf (notBorrowFlag (s1.reg y) a))

/-- `SHL Vx` (R180): VF takes bit 7, then `V[x]`, as it then stands, is shifted; `y` is ignored (R95). -/
def execShl (x : Reg) (s : State) : Host.Outcome State Fault Refusal :=
  let s1 := s.setReg vf (highBitFlag (s.reg x))
  .next (s1.setReg x (s1.reg x <<< 1))

end Sys2Proof.Machine
end

