-- ==== Sys2Proof/Machine/TimersRandom.lean ====
section
/-! DEFINITION. The timer and random-number instructions (spec/44_timers_random.md R220 to R223). Which opcode moves which timer is
the spec's own assignment (log entry 16). -/

namespace Sys2Proof.Machine

/-- `LD Vx, DT` (R220): the value the previous step's timer phase left. -/
def execLdVxDt (x : Reg) (s : State) : Host.Outcome State Fault Refusal := .next (s.setReg x s.dt)

/-- `LD DT, Vx` (R221): this step's timer phase still follows. -/
def execLdDtVx (x : Reg) (s : State) : Host.Outcome State Fault Refusal := .next (s.setDt (s.reg x))

/-- `LD ST, Vx` (R222). -/
def execLdStVx (x : Reg) (s : State) : Host.Outcome State Fault Refusal := .next (s.setSt (s.reg x))

/-- `RND Vx, kk` (R223): the random byte is an input of the step (R280; log entry 2). -/
def execRnd (x : Reg) (kk : Byte) (s : State) : Host.Outcome State Fault Refusal :=
  .next (s.setReg x (s.inputs.randomByte &&& kk))

end Sys2Proof.Machine
end

