-- ==== Sys2Proof/Machine/Step.lean ====
section
/-! DEFINITION. One step (spec/40_execution_cycle.md R120): the phases before `Execute`, the one instruction, the timer phase. -/

namespace Sys2Proof.Machine

/-- `step()`. -/
def step (s : State) : Host.Outcome State Fault Refusal :=
  match s.prepare with
  | .done t => .next t
  | .execute i t => endOutcome (exec i t)

/-- The state with the instruction word of an opcode-table row (bit 0 least significant) where `step` fetches next. -/
def State.withFetchWord (s : State) (nbits w : Nat) : State := s.placeWord (BitVec.ofNat 16 (w % 2 ^ nbits))

end Sys2Proof.Machine
end

