-- ==== Sys2Proof/Machine/Reset.lean ====
section
/-! DEFINITION. Reset with its arguments (spec/70_reset_and_hazards.md R300, R301, spec/10_state.md R37, R43): the parameters of R5,
the font and the program image. The host's loader acts before the first step. `State.reset` is the case of the default parameters,
the default font and the empty image (log entry 10). -/

namespace Sys2Proof.Machine

/-- Copies bytes into a memory of `size` bytes from an address on (R301(b), (c)). -/
def Memory.load (size : Nat) (m : Memory) (a : Nat) (bytes : List Byte) : Memory :=
  match Memory.writeBytes size m a bytes with
  | .ok m' => m'
  | .error _ => m

/-- `FONT` by default: the table of R303 (log entry 8). -/
def defaultFont : Vector Byte 80 := ⟨fontBytes.toArray, rfl⟩

/-- Reset with the parameters `p`, the font `font` and the image `rom` (R300, R37); `none` is the loader's `ProgramTooLarge`, an
image that would not fit before `MEM_SIZE` (R264, R301(a)), raised before an engine exists. -/
def State.resetWith (p : Params) (font : Vector Byte 80) (rom : List Byte) : Option State :=
  if Config.programOrigin + rom.length ≤ p.memSize then
    some { State.reset with
      params := p
      mem := Memory.load p.memSize (Memory.load p.memSize [] Config.fontBase font.toList) Config.programOrigin rom }
  else none

end Sys2Proof.Machine
end

