-- ==== Sys2Proof/Safety.lean ====
section
/-! DEFINITION. The terms claims are stated in: frames (spec/40_execution_cycle.md R126), the access table (spec/10_state.md R38), halts
with their records (spec/60_exceptions.md R255), the pixel view of a draw (R274), and the invariant of reachable states (R39). -/

namespace Sys2Proof.Machine

/-! ### Frames -/

/-- The pieces of state of R38, plus the model's own. -/
inductive Part where
  | regs | index | pc | callStack | delay | sound | userFlags | memory | display | run | wait | params | inputs
  deriving DecidableEq, Repr

/-- A piece of state is the same in two states. Memory is compared through the read of every address. -/
def Part.same : Part → State → State → Prop
  | .regs, s, t => ∀ r, t.reg r = s.reg r
  | .index, s, t => t.i = s.i
  | .pc, s, t => t.pc = s.pc
  | .callStack, s, t => t.sp = s.sp ∧ t.stack = s.stack
  | .delay, s, t => t.dt = s.dt
  | .sound, s, t => t.st = s.st
  | .userFlags, s, t => t.uf = s.uf
  | .memory, s, t => ∀ a, t.readByte a = s.readByte a
  | .display, s, t => t.disp = s.disp
  | .run, s, t => t.run = s.run ∧ t.halt = s.halt
  | .wait, s, t => t.wait = s.wait
  | .params, s, t => t.params = s.params
  | .inputs, s, t => t.script = s.script ∧ t.clock = s.clock

/-- Every piece of state outside the list is unchanged. -/
def Frame (changed : List Part) (s t : State) : Prop := ∀ p, p ∉ changed → p.same s t

/-- Every general register outside the list is unchanged. -/
def RegsKept (written : List Reg) (s t : State) : Prop := ∀ r, r ∉ written → t.reg r = s.reg r

/-- Every byte of memory outside the `n` bytes from `a` on reads as before. -/
def MemoryKeptOutside (a n : Nat) (s t : State) : Prop :=
  ∀ b, (b < a ∨ a + n ≤ b) → t.readByte b = s.readByte b

/-- The pieces of state a completing instruction may change during `Execute` (the "written by" column of R38). -/
def mayWrite : Instr → List Part
  | .cls => [.display]
  | .ret => [.pc, .callStack]
  | .jmp0 _ => [.pc]
  | .jmp _ => [.pc]
  | .call _ => [.pc, .callStack]
  | .seImm _ _ => [.pc]
  | .sneImm _ _ => [.pc]
  | .seReg _ _ => [.pc]
  | .ldImm _ _ => [.regs]
  | .addImm _ _ => [.regs]
  | .ldReg _ _ => [.regs]
  | .orReg _ _ => [.regs]
  | .andReg _ _ => [.regs]
  | .xorReg _ _ => [.regs]
  | .addReg _ _ => [.regs]
  | .subReg _ _ => [.regs]
  | .shr _ _ => [.regs]
  | .subnReg _ _ => [.regs]
  | .shl _ _ => [.regs]
  | .sneReg _ _ => [.pc]
  | .ldI _ => [.index]
  | .jmpV0 _ => [.pc]
  | .rnd _ _ => [.regs]
  | .drw _ _ _ => [.regs, .display]
  | .skp _ => [.pc]
  | .sknp _ => [.pc]
  | .ldVxDt _ => [.regs]
  | .ldVxKey _ => [.regs, .wait]
  | .ldDtVx _ => [.delay]
  | .ldStVx _ => [.sound]
  | .addI _ => [.regs, .index]
  | .ldFont _ => [.index]
  | .ldBcd _ => [.memory]
  | .storeRegs _ => [.memory]
  | .loadRegs _ => [.regs]
  | .saveFlags _ => [.userFlags]
  | .restoreFlags _ => [.regs]

/-- All register indices. -/
def allRegs : List Reg := [0, 1, 2, 3, 4, 5, 6, 7, 8, 9, 10, 11, 12, 13, 14, 15]

/-- The general registers a completing instruction may change (R38, with R21 for VF as flag). -/
def mayWriteRegs : Instr → List Reg
  | .cls => []
  | .ret => []
  | .jmp0 _ => []
  | .jmp _ => []
  | .call _ => []
  | .seImm _ _ => []
  | .sneImm _ _ => []
  | .seReg _ _ => []
  | .ldImm x _ => [x]
  | .addImm x _ => [x]
  | .ldReg x _ => [x]
  | .orReg x _ => [x]
  | .andReg x _ => [x]
  | .xorReg x _ => [x]
  | .addReg x _ => [x, vf]
  | .subReg x _ => [x, vf]
  | .shr x _ => [x, vf]
  | .subnReg x _ => [x, vf]
  | .shl x _ => [x, vf]
  | .sneReg _ _ => []
  | .ldI _ => []
  | .jmpV0 _ => []
  | .rnd x _ => [x]
  | .drw _ _ _ => [vf]
  | .skp _ => []
  | .sknp _ => []
  | .ldVxDt x => [x]
  | .ldVxKey x => [x]
  | .ldDtVx _ => []
  | .ldStVx _ => []
  | .addI _ => [vf]
  | .ldFont _ => []
  | .ldBcd _ => []
  | .storeRegs _ => []
  | .loadRegs x => allRegs.filter (fun r => decide (r.val ≤ x.val))
  | .saveFlags _ => []
  | .restoreFlags x => allRegs.filter (fun r => decide (r.val ≤ min x.val 7))

/-- The instructions whose `Execute` reads an answer of the environment (R132). -/
def readsInputs : Instr → Bool
  | .cls => false
  | .ret => false
  | .jmp0 _ => false
  | .jmp _ => false
  | .call _ => false
  | .seImm _ _ => false
  | .sneImm _ _ => false
  | .seReg _ _ => false
  | .ldImm _ _ => false
  | .addImm _ _ => false
  | .ldReg _ _ => false
  | .orReg _ _ => false
  | .andReg _ _ => false
  | .xorReg _ _ => false
  | .addReg _ _ => false
  | .subReg _ _ => false
  | .shr _ _ => false
  | .subnReg _ _ => false
  | .shl _ _ => false
  | .sneReg _ _ => false
  | .ldI _ => false
  | .jmpV0 _ => false
  | .rnd _ _ => true
  | .drw _ _ _ => false
  | .skp _ => true
  | .sknp _ => true
  | .ldVxDt _ => false
  | .ldVxKey _ => true
  | .ldDtVx _ => false
  | .ldStVx _ => false
  | .addI _ => false
  | .ldFont _ => false
  | .ldBcd _ => false
  | .storeRegs _ => false
  | .loadRegs _ => false
  | .saveFlags _ => false
  | .restoreFlags _ => false

/-- The same outcome with other answers prescribed. -/
def withScript (script : List Inputs) : Host.Outcome State Fault Refusal → Host.Outcome State Fault Refusal
  | .next t => .next { t with script := script }
  | .fault r => .fault r
  | .refused r => .refused r

/-! ### Halts -/

/-- Executing `i` is the fatal halt `reason` with the record of R255: the address `ia = pc - 2`, the instruction's word. Nothing
is said of the rest of the state (R257). -/
def HaltsWith (i : Instr) (s : State) (reason : HaltReason) (badAddr : Option Nat) : Prop :=
  ∃ t, exec i s = .next t ∧ t.run = .halted reason ∧
    t.halt = some { cause := reason.code, instrAddr := s.pc - 2, opcode := some (encode i), badAddr := badAddr }

/-- A step ends in the halt `reason` with this record. -/
def StepHaltsWith (s : State) (reason : HaltReason) (record : HaltRecord) : Prop :=
  ∃ t, step s = .next t ∧ t.run = .halted reason ∧ t.halt = some record

/-- The step goes as far as the fetch: running, in no key wait, the poll answered `Continue` (R120). -/
def State.ReadyToFetch (s : State) : Prop := s.run = .running ∧ s.wait = none ∧ s.inputs.poll = .goOn

/-- The two bytes at `pc` are there and are these (R62, R123). -/
def State.HasCode (s : State) (hi lo : Byte) : Prop :=
  s.readByte s.pc.toNat = some hi ∧ s.readByte (s.pc.toNat + 1) = some lo

/-- Which instruction can raise a fault during `Execute` (R252 to R254, R260(5)). -/
def canRaise : HaltReason → Instr → Prop
  | .userQuit, _ => False
  | .illegalOpcode, _ => False
  | .addressOutOfRange, i =>
    (∃ x y n, i = .drw x y n) ∨ (∃ x, i = .ldBcd x) ∨ (∃ x, i = .storeRegs x) ∨ (∃ x, i = .loadRegs x)
  | .stackOverflow, i => ∃ nnn, i = .call nnn
  | .stackUnderflow, i => i = .ret

/-- The fields a record has for its reason, in a memory of `size` bytes (the rows of R255). -/
def HaltRecord.Fits (size : Nat) (record : HaltRecord) : HaltReason → Prop
  | .userQuit => record.opcode = none ∧ record.badAddr = none
  | .illegalOpcode =>
    (∃ w, record.opcode = some w ∧ decodeWord w = .error (.illegalOpcode w)) ∧ record.badAddr = none
  | .addressOutOfRange => ∃ a, record.badAddr = some a ∧ size ≤ a
  | .stackOverflow => (∃ nnn, record.opcode = some (encode (.call nnn))) ∧ record.badAddr = none
  | .stackUnderflow => record.opcode = some 0x00EE#16 ∧ record.badAddr = none

/-! ### The pixels of a draw (R274) -/

/-- The sprite of `n` bytes at `I`, drawn with its corner at column `xc` and row `yc`, has a set bit on pixel (r, c). -/
def spriteOn (s : State) (xc yc : Byte) (n : Nat) (r : Fin 32) (c : Fin 64) : Bool :=
  let row := (r.val + 32 - yc.toNat % 32) % 32
  let col := (c.val + 64 - xc.toNat % 64) % 64
  decide (row < n) && decide (col < 8) &&
    match s.readByte (s.effAddr row) with
    | some b => b.getLsbD (7 - col)
    | none => false

/-! ### The invariant of reachable states (R39) -/

/-- The memory sizes for which `pc` never wraps: a fetch at `MEM_SIZE - 2` and a taken skip stay below 2^16 (R23, D31; log entry
11). -/
def paramsOk (p : Params) : Prop := p.memSize ≤ 0xFFFC

/-- What holds while the engine runs: (c) `pc` at most 0x10FE, or where `MEM_SIZE` is larger than by default, at most where a skip
from its last fetch leads; (d) every live stack entry in 0x002..`MEM_SIZE`, which is 0xFFF by default; (e) no halt record.
(a) and (b) are in the types of the fields. -/
def State.RunningOk (s : State) : Prop :=
  s.pc.toNat ≤ max 0x10FE (s.params.memSize + 2) ∧
  (∀ j : Fin 16, j.val < s.sp.val → 2 ≤ (s.stack[j.val]).toNat ∧ (s.stack[j.val]).toNat ≤ s.params.memSize) ∧
  s.halt = none

/-- What holds once it has halted: a record of that reason (R32, R255), and nothing in flight. -/
def State.HaltedOk (s : State) (reason : HaltReason) : Prop :=
  s.wait = none ∧ ∃ record, s.halt = some record ∧ record.cause = reason.code ∧ HaltRecord.Fits s.params.memSize record reason

/-- The invariant: a memory size that fits, memory in its canonical form (log entry 9), and R39 or the halted engine's record. -/
def State.Inv (s : State) : Prop :=
  paramsOk s.params ∧ Memory.wf s.params.memSize s.mem = true ∧ (s.run = .running → s.RunningOk) ∧
  ∀ reason, s.run = .halted reason → s.HaltedOk reason

end Sys2Proof.Machine
end

