-- ==== Sys2Proof/Certificates/Slice0/Obligations.lean ====
section
/-! DEFINITION. The statements for the provers, from the numbered rules of spec/. Each result statement says that `exec` answers a next
state, what the instruction writes there, and that everything else is unchanged (`Frame`, `RegsKept`). -/

open Sys2Proof Sys2Proof.Machine

/-! ### Load, arithmetic, logic, shifts (R170 to R182) -/

/-- R170: `LD Vx, kk` completes with `V[x] = kk` and changes nothing else. -/
def Obligations.LdImmWritesVx : Prop :=
  ∀ (s : State) (x : Reg) (kk : Byte), ∃ t, exec (.ldImm x kk) s = .next t ∧
    t.reg x = kk ∧ RegsKept [x] s t ∧ Frame [.regs] s t

/-- R171: `ADD Vx, kk` completes with the sum modulo 256 in `V[x]`; VF is no flag here. -/
def Obligations.AddImmWrapsWithoutFlag : Prop :=
  ∀ (s : State) (x : Reg) (kk : Byte), ∃ t, exec (.addImm x kk) s = .next t ∧
    (t.reg x).toNat = ((s.reg x).toNat + kk.toNat) % 256 ∧ RegsKept [x] s t ∧ Frame [.regs] s t

/-- R172 to R175: `LD`, `OR`, `AND`, `XOR Vx, Vy` complete with the value of each bit of `V[x]`. That they change
nothing else, VF untouched unless `x` = 15, is the spec's decision D1 (R126, log entry 23). -/
def Obligations.MoveAndLogicWriteVxOnly : Prop :=
  ∀ (s : State) (x y : Reg),
    (∃ t, exec (.ldReg x y) s = .next t ∧ t.reg x = s.reg y ∧ RegsKept [x] s t ∧ Frame [.regs] s t) ∧
    (∃ t, exec (.orReg x y) s = .next t ∧
      (∀ k, k < 8 → (t.reg x).getLsbD k = ((s.reg x).getLsbD k || (s.reg y).getLsbD k)) ∧
      RegsKept [x] s t ∧ Frame [.regs] s t) ∧
    (∃ t, exec (.andReg x y) s = .next t ∧
      (∀ k, k < 8 → (t.reg x).getLsbD k = ((s.reg x).getLsbD k && (s.reg y).getLsbD k)) ∧
      RegsKept [x] s t ∧ Frame [.regs] s t) ∧
    (∃ t, exec (.xorReg x y) s = .next t ∧
      (∀ k, k < 8 → (t.reg x).getLsbD k = ((s.reg x).getLsbD k ^^ (s.reg y).getLsbD k)) ∧
      RegsKept [x] s t ∧ Frame [.regs] s t)

/-- R176: `ADD Vx, Vy` leaves the sum modulo 256 in `V[x]` (lost when `x` = 15) and the carry in VF. -/
def Obligations.AddRegSumThenCarry : Prop :=
  ∀ (s : State) (x y : Reg), ∃ t, exec (.addReg x y) s = .next t ∧
    t.reg vf = (if (s.reg x).toNat + (s.reg y).toNat > 255 then 1 else 0) ∧
    (x ≠ vf → (t.reg x).toNat = ((s.reg x).toNat + (s.reg y).toNat) % 256) ∧
    RegsKept [x, vf] s t ∧ Frame [.regs] s t

/-- R177: `SUB Vx, Vy` leaves the difference modulo 256 in `V[x]` (lost when `x` = 15) and NOT borrow in VF, for every aliasing. -/
def Obligations.SubRegDifferenceThenNotBorrow : Prop :=
  ∀ (s : State) (x y : Reg), ∃ t, exec (.subReg x y) s = .next t ∧
    t.reg vf = (if (s.reg x).toNat ≥ (s.reg y).toNat then 1 else 0) ∧
    (x ≠ vf → (t.reg x).toNat = ((s.reg x).toNat + 256 - (s.reg y).toNat) % 256) ∧
    RegsKept [x, vf] s t ∧ Frame [.regs] s t

/-- R178: `SHR Vx` halves `V[x]` and puts the old bit 0 in VF, whatever `y`; on VF itself the result is 0
(the spec's decision D2, log entry 12). -/
def Obligations.ShrShiftsVxWhateverY : Prop :=
  ∀ (s : State) (x y : Reg), ∃ t, exec (.shr x y) s = .next t ∧
    (x ≠ vf → (t.reg x).toNat = (s.reg x).toNat / 2 ∧ (t.reg vf).toNat = (s.reg x).toNat % 2) ∧
    (x = vf → t.reg vf = 0) ∧
    RegsKept [x, vf] s t ∧ Frame [.regs] s t

/-- R179: `SUBN Vx, Vy` leaves the reverse difference modulo 256 in `V[x]` (lost when `x` = 15) and in VF NOT borrow, where
`V[y]` is read after `V[x]` was written: with `x` = `y` VF is 1 only for an old value of 0 (the spec's decision D2, log entry 12). -/
def Obligations.SubnRegReverseDifference : Prop :=
  ∀ (s : State) (x y : Reg), ∃ t, exec (.subnReg x y) s = .next t ∧
    (x ≠ y → t.reg vf = (if (s.reg y).toNat ≥ (s.reg x).toNat then 1 else 0)) ∧
    (x = y → t.reg vf = (if (s.reg x).toNat = 0 then 1 else 0)) ∧
    (x ≠ vf → (t.reg x).toNat = ((s.reg y).toNat + 256 - (s.reg x).toNat) % 256) ∧
    RegsKept [x, vf] s t ∧ Frame [.regs] s t

/-- R180: `SHL Vx` doubles `V[x]` modulo 256 and puts the old bit 7 in VF, whatever `y`; on VF itself the result is 2 or
0 (the spec's decision D2, log entry 12). -/
def Obligations.ShlShiftsVxWhateverY : Prop :=
  ∀ (s : State) (x y : Reg), ∃ t, exec (.shl x y) s = .next t ∧
    (x ≠ vf → (t.reg x).toNat = (s.reg x).toNat * 2 % 256 ∧ (t.reg vf).toNat = (s.reg x).toNat / 128) ∧
    (x = vf → (t.reg vf).toNat = 2 * ((s.reg vf).toNat / 128)) ∧
    RegsKept [x, vf] s t ∧ Frame [.regs] s t

/-! ### Control transfer (R150 to R159) -/

/-- R151, R152: `JMP0 nnn` and `JMP nnn` complete with `pc = nnn` and change nothing else. -/
def Obligations.JumpsTakeTheirTarget : Prop :=
  ∀ (s : State) (nnn : BitVec 12),
    (∃ t, exec (.jmp0 nnn) s = .next t ∧ t.pc.toNat = nnn.toNat ∧ Frame [.pc] s t) ∧
    (∃ t, exec (.jmp nnn) s = .next t ∧ t.pc.toNat = nnn.toNat ∧ Frame [.pc] s t)

/-- R158: `JMP V0, nnn` completes with the sum in `pc`, reduced by nothing (the spec's decision D33, log entry 23). -/
def Obligations.JmpV0AddsWithoutMask : Prop :=
  ∀ (s : State) (nnn : BitVec 12), ∃ t, exec (.jmpV0 nnn) s = .next t ∧
    t.pc.toNat = (s.reg 0).toNat + nnn.toNat ∧ Frame [.pc] s t

/-- R154 to R157: the four skips complete; `pc` moves 2 further exactly when the comparison holds. -/
def Obligations.ComparisonSkips : Prop :=
  ∀ (s : State) (x y : Reg) (kk : Byte),
    (∃ t, exec (.seImm x kk) s = .next t ∧ t.pc = (if s.reg x = kk then s.pc + 2 else s.pc) ∧ Frame [.pc] s t) ∧
    (∃ t, exec (.sneImm x kk) s = .next t ∧ t.pc = (if s.reg x ≠ kk then s.pc + 2 else s.pc) ∧ Frame [.pc] s t) ∧
    (∃ t, exec (.seReg x y) s = .next t ∧ t.pc = (if s.reg x = s.reg y then s.pc + 2 else s.pc) ∧ Frame [.pc] s t) ∧
    (∃ t, exec (.sneReg x y) s = .next t ∧ t.pc = (if s.reg x ≠ s.reg y then s.pc + 2 else s.pc) ∧ Frame [.pc] s t)

/-- R153: with SP below 16 `CALL nnn` puts `pc` (the post-fetch PC) in `STACK[SP]`, raises SP and jumps; no other entry
changes. -/
def Obligations.CallPushesPostFetchPc : Prop :=
  ∀ (s : State) (nnn : BitVec 12), s.sp.val < 16 → ∃ t, exec (.call nnn) s = .next t ∧
    t.sp.val = s.sp.val + 1 ∧ t.pc.toNat = nnn.toNat ∧
    (∀ j : Fin 16, t.stack[j.val] = if j.val = s.sp.val then s.pc else s.stack[j.val]) ∧
    Frame [.pc, .callStack] s t

/-- R253: `CALL` with SP = 16 is the halt `StackOverflow` with its record (its layout: D6, D7, log entry 21; `pc - 2` and
the word: log entry 14). Of the
rest of the state nothing is said (R257, log entry 3). -/
def Obligations.CallOnFullStackHalts : Prop :=
  ∀ (s : State) (nnn : BitVec 12), s.sp.val = 16 → HaltsWith (.call nnn) s .stackOverflow none

/-- R150: with SP above 0 `RET` lowers SP and loads `pc` from the entry there; every entry keeps its bits. -/
def Obligations.RetPopsIntoPc : Prop :=
  ∀ (s : State) (j : Fin 16), s.sp.val = j.val + 1 → ∃ t, exec .ret s = .next t ∧
    t.sp.val = j.val ∧ t.pc = s.stack[j.val] ∧ t.stack = s.stack ∧ Frame [.pc, .callStack] s t

/-- R254: `RET` with SP = 0 is the halt `StackUnderflow` with its record (its layout: D6, D7, log entry 21; `pc - 2` and
the word: log entry 14). -/
def Obligations.RetOnEmptyStackHalts : Prop :=
  ∀ s : State, s.sp.val = 0 → HaltsWith .ret s .stackUnderflow none

/-- R150 with R153: a `CALL` that completes, then a `RET`, leaves `pc` after the call and SP as it was, and every entry below. -/
def Obligations.CallThenRetReturns : Prop :=
  ∀ (s : State) (nnn : BitVec 12), s.sp.val < 16 → ∃ t u, exec (.call nnn) s = .next t ∧ exec .ret t = .next u ∧
    u.pc = s.pc ∧ u.sp = s.sp ∧ (∀ j : Fin 16, j.val < s.sp.val → u.stack[j.val] = s.stack[j.val]) ∧
    Frame [.callStack] s u

/-! ### Index register, memory, user flags (R200 to R208) -/

/-- R200, R202: `LD I, nnn` and `LD F, Vx` complete with the value of `I`; the glyph address uses the whole byte
(the spec's decision D24, log entry 23). -/
def Obligations.IndexLoads : Prop :=
  ∀ (s : State) (nnn : BitVec 12) (x : Reg),
    (∃ t, exec (.ldI nnn) s = .next t ∧ t.i.toNat = nnn.toNat ∧ Frame [.index] s t) ∧
    (∃ t, exec (.ldFont x) s = .next t ∧ t.i.toNat = 0x50 + 5 * (s.reg x).toNat ∧ Frame [.index] s t)

/-- R201, for every `I_OVERFLOW_BOUND`: `ADD I, Vx` leaves the sum modulo 2^16 in `I` and the overflow in VF
(the bound is the spec's open parameter, D10, log entry 1). -/
def Obligations.AddIWrapsAndFlags : Prop :=
  ∀ (s : State) (x : Reg), ∃ t, exec (.addI x) s = .next t ∧
    t.i.toNat = (s.i.toNat + (s.reg x).toNat) % 65536 ∧
    t.reg vf = (if s.i.toNat + (s.reg x).toNat > s.params.iOverflowBound then 1 else 0) ∧
    RegsKept [vf] s t ∧ Frame [.regs, .index] s t

/-- R203: `LD B, Vx` with its three bytes in range stores the decimal digits at `I`, `I+1`, `I+2` and nothing else. -/
def Obligations.LdBcdStoresDigits : Prop :=
  ∀ (s : State) (x : Reg), Memory.wf s.params.memSize s.mem = true → s.effAddr 2 < s.params.memSize →
    ∃ t, exec (.ldBcd x) s = .next t ∧
      t.readByte (s.effAddr 0) = some (BitVec.ofNat 8 ((s.reg x).toNat / 100)) ∧
      t.readByte (s.effAddr 1) = some (BitVec.ofNat 8 ((s.reg x).toNat / 10 % 10)) ∧
      t.readByte (s.effAddr 2) = some (BitVec.ofNat 8 ((s.reg x).toNat % 10)) ∧
      MemoryKeptOutside (s.effAddr 0) 3 s t ∧ Frame [.memory] s t

/-- R204: `LD [I], Vx` with its bytes in range stores `V[k]` at `I + k` for k in 0..x and nothing else. That `I`
is unchanged is the spec's decision D1 (log entry 23). -/
def Obligations.StoreRegsStoresRange : Prop :=
  ∀ (s : State) (x : Reg), Memory.wf s.params.memSize s.mem = true → s.effAddr x.val < s.params.memSize →
    ∃ t, exec (.storeRegs x) s = .next t ∧
      (∀ k : Reg, k.val ≤ x.val → t.readByte (s.effAddr k.val) = some (s.reg k)) ∧
      MemoryKeptOutside (s.effAddr 0) (x.val + 1) s t ∧ Frame [.memory] s t

/-- R205: `LD Vx, [I]` with its bytes in range loads `V[k]` from `I + k` for k in 0..x; the registers above `V[x]`, `I` and memory
are unchanged; that `I` is, is the spec's decision D1 (log entry 23). -/
def Obligations.LoadRegsLoadsRange : Prop :=
  ∀ (s : State) (x : Reg), s.effAddr x.val < s.params.memSize →
    ∃ t, exec (.loadRegs x) s = .next t ∧
      (∀ k : Reg, k.val ≤ x.val → s.readByte (s.effAddr k.val) = some (t.reg k)) ∧
      (∀ k : Reg, x.val < k.val → t.reg k = s.reg k) ∧ Frame [.regs] s t

/-- R252, R67: FX33, FX55, FX65 and DXYN with a byte out of range are the halt `AddressOutOfRange`, reporting the lowest
out-of-range address, which is `max(I, MEM_SIZE)` (addresses never reduced: D5, log
entry 23; the record: D6, D7, log entry 21; `pc - 2` and the word: log entry 14). -/
def Obligations.OutOfRangeAccessHalts : Prop :=
  ∀ (s : State) (x y : Reg) (n : BitVec 4),
    (s.params.memSize ≤ s.i.toNat + 2 → HaltsWith (.ldBcd x) s .addressOutOfRange (some (max s.i.toNat s.params.memSize))) ∧
    (s.params.memSize ≤ s.i.toNat + x.val → HaltsWith (.storeRegs x) s .addressOutOfRange (some (max s.i.toNat s.params.memSize))) ∧
    (s.params.memSize ≤ s.i.toNat + x.val → HaltsWith (.loadRegs x) s .addressOutOfRange (some (max s.i.toNat s.params.memSize))) ∧
    (0 < n.toNat → s.params.memSize ≤ s.i.toNat + n.toNat - 1 →
      HaltsWith (.drw x y n) s .addressOutOfRange (some (max s.i.toNat s.params.memSize)))

/-- R206: `LD R, Vx` copies `V[k]` to `UF[k]` for k in 0..min(x,7), `x` the field (the spec's decision D12, log entry 23), and
changes no other flag. -/
def Obligations.SaveFlagsCopiesRange : Prop :=
  ∀ (s : State) (x : Reg), ∃ t, exec (.saveFlags x) s = .next t ∧
    (∀ k : Fin 8, k.val ≤ x.val → t.uf[k.val] = s.v[k.val]) ∧
    (∀ k : Fin 8, x.val < k.val → t.uf[k.val] = s.uf[k.val]) ∧ Frame [.userFlags] s t

/-- R207: `LD Vx, R` copies `UF[k]` to `V[k]` for k in 0..min(x,7), `x` the field (D12, log entry 23); `V[8]`..`V[15]`
never change. -/
def Obligations.RestoreFlagsCopiesRange : Prop :=
  ∀ (s : State) (x : Reg), ∃ t, exec (.restoreFlags x) s = .next t ∧
    (∀ k : Fin 8, k.val ≤ x.val → t.v[k.val] = s.uf[k.val]) ∧
    (∀ k : Reg, min x.val 7 < k.val → t.reg k = s.reg k) ∧ Frame [.regs] s t

/-! ### Timers and random numbers (R220 to R223, R266 to R268) -/

/-- R220 to R222: the three timer moves complete (before the timer phase of the same step). Which opcode moves which timer is
the spec's decision D17, log entry 16. -/
def Obligations.TimerMoves : Prop :=
  ∀ (s : State) (x : Reg),
    (∃ t, exec (.ldVxDt x) s = .next t ∧ t.reg x = s.dt ∧ RegsKept [x] s t ∧ Frame [.regs] s t) ∧
    (∃ t, exec (.ldDtVx x) s = .next t ∧ t.dt = s.reg x ∧ Frame [.delay] s t) ∧
    (∃ t, exec (.ldStVx x) s = .next t ∧ t.st = s.reg x ∧ Frame [.sound] s t)

/-- R223: `RND Vx, kk` completes with the step's random byte, whatever it is, masked by `kk`. -/
def Obligations.RndMasksRandomByte : Prop :=
  ∀ (s : State) (x : Reg) (kk : Byte), ∃ t, exec (.rnd x kk) s = .next t ∧
    (∀ k, k < 8 → (t.reg x).getLsbD k = (s.inputs.randomByte.getLsbD k && kk.getLsbD k)) ∧
    RegsKept [x] s t ∧ Frame [.regs] s t

/-- R266, R267, R268: the timer phase in both modes (the modes are the spec's decisions D8, D9; log entry 1). -/
def Obligations.TimerPhaseCounts : Prop :=
  ∀ s : State,
    (s.params.timerMode = .perCycle →
      s.timerPhase.dt.toNat = s.dt.toNat - 1 ∧ Frame [.delay] s s.timerPhase) ∧
    (s.params.timerMode = .tick60 →
      s.timerPhase.dt.toNat = s.dt.toNat - s.inputs.ticks ∧ s.timerPhase.st.toNat = s.st.toNat - s.inputs.ticks ∧
      Frame [.delay, .sound] s s.timerPhase)

/-! ### Display and keypad (R230 to R234, R273 to R279) -/

/-- R230: `CLS` completes with every pixel off and changes nothing else. -/
def Obligations.ClsBlanksDisplay : Prop :=
  ∀ s : State, ∃ t, exec .cls s = .next t ∧
    (∀ (r : Fin 32) (c : Fin 64), Display.pixel t.disp r c = false) ∧ Frame [.display] s t

/-- R231, R274: `DRW` with its bytes in range toggles exactly the pixels a set sprite bit stands on, each coordinate wrapping by
itself, and VF is 1 exactly when one of them was on. `n` = 0 draws nothing and writes VF = 0, whatever `I` (D29, log entry 23).
The display is the reference one (log entry 6); bit 7 is the leftmost column, rows go down (D15, log entry 17). -/
def Obligations.DrwXorsSpriteAndFlagsCollision : Prop :=
  ∀ (s : State) (x y : Reg) (n : BitVec 4), (n.toNat = 0 ∨ s.effAddr (n.toNat - 1) < s.params.memSize) →
    ∃ t, exec (.drw x y n) s = .next t ∧
      (∀ (r : Fin 32) (c : Fin 64), Display.pixel t.disp r c =
        (Display.pixel s.disp r c ^^ spriteOn s (s.reg x) (s.reg y) n.toNat r c)) ∧
      (t.reg vf = 0 ∨ t.reg vf = 1) ∧
      (t.reg vf = 1 ↔ ∃ (r : Fin 32) (c : Fin 64),
        spriteOn s (s.reg x) (s.reg y) n.toNat r c = true ∧ Display.pixel s.disp r c = true) ∧
      RegsKept [vf] s t ∧ Frame [.regs, .display] s t

/-- R231 (with R274): drawing the same sprite (at most 15 bytes) again at the same place restores the display. The second draw
collides exactly when some set sprite bit (row `j`, column `k`, bit 7 leftmost: D15, log entry 17) stands on a pixel that was off
before the first draw; so where the first draw reported no collision, exactly when the sprite has a set bit at all. The display is
the reference one (log entry 6). -/
def Obligations.DrawingTwiceRestoresDisplay : Prop :=
  ∀ (d : Display) (xc yc : Byte) (bytes : List Byte), bytes.length ≤ 15 →
    (displayDraw (displayDraw d xc yc bytes).1 xc yc bytes).1 = d ∧
    ((displayDraw (displayDraw d xc yc bytes).1 xc yc bytes).2 = true ↔
      ∃ (j k : Nat) (b : Byte) (r : Fin 32) (c : Fin 64), bytes[j]? = some b ∧ k < 8 ∧ b.getLsbD (7 - k) = true ∧
        r.val = (yc.toNat + j) % 32 ∧ c.val = (xc.toNat + k) % 64 ∧ Display.pixel d r c = false) ∧
    ((displayDraw d xc yc bytes).2 = false →
      ((displayDraw (displayDraw d xc yc bytes).1 xc yc bytes).2 = true ↔ ∃ b ∈ bytes, b ≠ 0))

/-- R232, R233: for a key index below 16 `SKP` and `SKNP` complete, skipping on the answer of `KeyDown` and on its complement. -/
def Obligations.KeySkips : Prop :=
  ∀ (s : State) (x : Reg) (k : Key), (s.reg x).toNat = k.val →
    (∃ t, exec (.skp x) s = .next t ∧ t.pc = (if s.keyDown k = true then s.pc + 2 else s.pc) ∧ Frame [.pc] s t) ∧
    (∃ t, exec (.sknp x) s = .next t ∧ t.pc = (if s.keyDown k = true then s.pc else s.pc + 2) ∧ Frame [.pc] s t)

/-- R279: for a key index of 16 or more both are refused (the spec's decision D14, log entry 5). -/
def Obligations.KeyIndexAboveFifteenIsRefused : Prop :=
  ∀ (s : State) (x : Reg), 16 ≤ (s.reg x).toNat →
    exec (.skp x) s = .refused (.keyIndexOutOfRange (s.reg x)) ∧
    exec (.sknp x) s = .refused (.keyIndexOutOfRange (s.reg x))

/-- R234, R278: if some poll of the step differs from the snapshot, `LD Vx, K` completes with the lowest key that differs at the
first such poll (the spec's decision D11; the polls are the model's input, log entry 4). -/
def Obligations.KeyWaitYieldsLowestChangedKey : Prop :=
  ∀ (s : State) (x : Reg) (before later : List Keys) (now : Keys) (k : Key),
    s.inputs.keyPolls = before ++ now :: later → (∀ p ∈ before, p = s.inputs.keys) →
    now[k.val] ≠ s.inputs.keys[k.val] → (∀ j : Key, j.val < k.val → now[j.val] = s.inputs.keys[j.val]) →
    ∃ t, exec (.ldVxKey x) s = .next t ∧ (t.reg x).toNat = k.val ∧ t.wait = none ∧
      RegsKept [x] s t ∧ Frame [.regs, .wait] s t

/-- R234(a), R35: if no poll of the step differs, the engine is blocked with the snapshot and has written nothing
(the blocked sub-state: log entry 4). -/
def Obligations.KeyWaitBlocksWithoutChange : Prop :=
  ∀ (s : State) (x : Reg), (∀ p ∈ s.inputs.keyPolls, p = s.inputs.keys) →
    ∃ t, exec (.ldVxKey x) s = .next t ∧ t.wait = some { x := x, snapshot := s.inputs.keys } ∧ Frame [.wait] s t

/-- R234(d), (e), R35: a step of a blocked engine consults no poll and fetches nothing. Without a change it stays blocked and its
timers stand. With one at some poll of the step it writes the lowest changed key, and the one timer phase of the wait runs (R128):
in `PerCycle` mode `DT` counts down by 1 and `ST` stands (R266, R267), in `Tick60` mode both count down by the step's ticks (R268).
What ends the wait is the spec's decision D11, the blocked steps are log entry 4; the timer modes are the spec's decisions D8 and
D9, log entry 1. -/
def Obligations.BlockedStepGoesOnWaiting : Prop :=
  ∀ (s : State) (w : KeyWait), s.run = .running → s.wait = some w →
    ((∀ p ∈ s.inputs.keyPolls, p = w.snapshot) → ∃ t, step s = .next t ∧ t.wait = some w ∧ Frame [.inputs] s t) ∧
    (∀ (before later : List Keys) (now : Keys) (k : Key), s.inputs.keyPolls = before ++ now :: later →
      (∀ p ∈ before, p = w.snapshot) →
      now[k.val] ≠ w.snapshot[k.val] → (∀ j : Key, j.val < k.val → now[j.val] = w.snapshot[j.val]) →
      ∃ t, step s = .next t ∧ (t.reg w.x).toNat = k.val ∧ t.wait = none ∧ RegsKept [w.x] s t ∧
        (s.params.timerMode = .perCycle → t.dt.toNat = s.dt.toNat - 1 ∧ t.st = s.st) ∧
        (s.params.timerMode = .tick60 →
          t.dt.toNat = s.dt.toNat - s.inputs.ticks ∧ t.st.toNat = s.st.toNat - s.inputs.ticks) ∧
        Frame [.regs, .wait, .delay, .sound, .inputs] s t)

/-! ### The step (R120 to R133) -/

/-- R120, R123, R125, R128, R131: when the bytes at `pc` decode to `i`, the step is `exec i` at the state with `pc` advanced by 2,
followed by the timer phase and the end of the step's inputs; a step that halted ends there, a blocked key wait runs no timer
phase, a refusal is the step's. The end of the inputs is the model's (log entries 2, 18), and
so is a step that ends blocked in `LD Vx, K` (R35, R234; log entry 4): in the spec such a step has not completed yet. -/
def Obligations.StepRunsTheDecodedInstruction : Prop :=
  ∀ (s : State) (hi lo : Byte) (i : Instr), s.ReadyToFetch → s.HasCode hi lo → decode [hi, lo] = .ok (i, []) →
    s.advancePc.pc = s.pc + 2 ∧ Frame [.pc] s s.advancePc ∧
    (∀ t, exec i s.advancePc = .next t → t.run = .running → t.wait = none → step s = .next t.timerPhase.nextInputs) ∧
    (∀ t w, exec i s.advancePc = .next t → t.run = .running → t.wait = some w → step s = .next t.nextInputs) ∧
    (∀ t reason, exec i s.advancePc = .next t → t.run = .halted reason → step s = .next t) ∧
    (∀ r, exec i s.advancePc = .refused r → step s = .refused r)

/-- R123, R252: a fetch with either byte outside memory is the halt `AddressOutOfRange`; the record has no opcode and the lowest
bad address (the spec's decisions D5, D6, D7; log entries 21, 23). -/
def Obligations.FetchOutOfRangeHalts : Prop :=
  ∀ s : State, s.ReadyToFetch → s.params.memSize ≤ s.pc.toNat + 1 →
    StepHaltsWith s .addressOutOfRange
      { cause := 3, instrAddr := s.pc, opcode := none, badAddr := some (max s.pc.toNat s.params.memSize) }

/-- R62, R64: the opcode fetched at any `pc` up to `MEM_SIZE - 2`, odd or even (D19, log entry 23), has the byte at `pc` as its high
half. -/
def Obligations.FetchIsBigEndian : Prop :=
  ∀ s : State, s.pc.toNat + 1 < s.params.memSize → ∃ hi lo w, s.HasCode hi lo ∧ s.fetch = .ok w ∧
    w.toNat = 256 * hi.toNat + lo.toNat

/-- R251: a fetched word that selects no row is the halt `IllegalOpcode`; the record has its address and the raw word
(the record's layout: D6, D7, log entry 21). -/
def Obligations.IllegalOpcodeHalts : Prop :=
  ∀ (s : State) (hi lo : Byte) (w : Word), s.ReadyToFetch → s.HasCode hi lo → w.toNat = 256 * hi.toNat + lo.toNat →
    decodeWord w = .error (.illegalOpcode w) →
    StepHaltsWith s .illegalOpcode { cause := 2, instrAddr := s.pc, opcode := some w, badAddr := none }

/-- R122, R255, R259: a `Quit` at the poll halts the engine before anything is fetched; only `run` and `halt`
change (the spec's decision D25, log entry 23). The record's layout is D6, D7, log entry 21. -/
def Obligations.QuitHaltsAndKeepsState : Prop :=
  ∀ s : State, s.run = .running → s.wait = none → s.inputs.poll = .quit →
    ∃ t, step s = .next t ∧ t.run = .halted .userQuit ∧
      t.halt = some { cause := 1, instrAddr := s.pc, opcode := none, badAddr := none } ∧ Frame [.run] s t

/-- R121: a step of a halted engine changes nothing (the spec's decision D18, log entry 23). -/
def Obligations.HaltedStepChangesNothing : Prop :=
  ∀ (s : State) (reason : HaltReason), s.run = .halted reason → step s = .next s

/-- R74: bytes stored by FX55 at `pc` are what the next fetch reads (the spec's decision D23, log entry 23). -/
def Obligations.StoreIsSeenByNextFetch : Prop :=
  ∀ (s : State) (x : Reg) (k : Nat) (h : k + 1 < 16), Memory.wf s.params.memSize s.mem = true →
    s.effAddr x.val < s.params.memSize → k + 1 ≤ x.val → s.pc.toNat = s.effAddr k →
    ∃ t, exec (.storeRegs x) s = .next t ∧ t.fetch = .ok (wordOfBytes (s.v[k]) (s.v[k + 1]))

/-- R133: at a jump to itself a step changes nothing but the timers (and uses up its inputs), and not the timers once they are 0. -/
def Obligations.SelfJumpIsAFixedPoint : Prop :=
  ∀ (s : State) (hi lo : Byte) (nnn : BitVec 12), s.ReadyToFetch → s.HasCode hi lo →
    decode [hi, lo] = .ok (.jmp nnn, []) → nnn.toNat = s.pc.toNat →
    ∃ t, step s = .next t ∧ Frame [.delay, .sound, .inputs] s t ∧ (s.dt = 0 → t.dt = 0) ∧ (s.st = 0 → t.st = 0)

/-! ### Reset (R40 to R47, R300, R301) -/

/-- R40 to R47: the state after reset. Zero for `V`, `I`, `DT`, `ST`, `UF`, `STACK` and memory outside the font is the spec's
decision D13 (log entry 7), the 80 font bytes are its table R303, written out here (D16, log entry 8), the parameters' defaults
are D4, D8, D10 (log entries 1, 11), and that no key wait is in progress is log entry 4 (DEDUCED from R35 and R37). -/
def Obligations.ResetLeavesTheseValues : Prop :=
  State.reset.pc = 0x200 ∧ State.reset.sp.val = 0 ∧ State.reset.run = .running ∧ State.reset.halt = none ∧
  State.reset.wait = none ∧ State.reset.i = 0 ∧ State.reset.dt = 0 ∧ State.reset.st = 0 ∧
  (∀ r : Reg, State.reset.reg r = 0) ∧ (∀ k : Fin 8, State.reset.uf[k.val] = 0) ∧
  (∀ j : Fin 16, State.reset.stack[j.val] = 0) ∧
  (∀ (r : Fin 32) (c : Fin 64), Display.pixel State.reset.disp r c = false) ∧
  ((List.range 80).map (fun k => State.reset.readByte (0x50 + k)) = List.map some (
    [0xF0#8, 0x90#8, 0x90#8, 0x90#8, 0xF0#8] ++ [0x20#8, 0x60#8, 0x20#8, 0x20#8, 0x70#8] ++
    [0xF0#8, 0x10#8, 0xF0#8, 0x80#8, 0xF0#8] ++ [0xF0#8, 0x10#8, 0xF0#8, 0x10#8, 0xF0#8] ++
    [0x90#8, 0x90#8, 0xF0#8, 0x10#8, 0x10#8] ++ [0xF0#8, 0x80#8, 0xF0#8, 0x10#8, 0xF0#8] ++
    [0xF0#8, 0x80#8, 0xF0#8, 0x90#8, 0xF0#8] ++ [0xF0#8, 0x10#8, 0x20#8, 0x40#8, 0x40#8] ++
    [0xF0#8, 0x90#8, 0xF0#8, 0x90#8, 0xF0#8] ++ [0xF0#8, 0x90#8, 0xF0#8, 0x10#8, 0xF0#8] ++
    [0xF0#8, 0x90#8, 0xF0#8, 0x90#8, 0x90#8] ++ [0xE0#8, 0x90#8, 0xE0#8, 0x90#8, 0xE0#8] ++
    [0xF0#8, 0x80#8, 0x80#8, 0x80#8, 0xF0#8] ++ [0xE0#8, 0x90#8, 0x90#8, 0x90#8, 0xE0#8] ++
    [0xF0#8, 0x80#8, 0xF0#8, 0x80#8, 0xF0#8] ++ [0xF0#8, 0x80#8, 0xF0#8, 0x80#8, 0x80#8])) ∧
  (∀ a, a < 0x50 ∨ (0xA0 ≤ a ∧ a < 0xFFF) → State.reset.readByte a = some 0) ∧
  (∀ a, 0xFFF ≤ a → State.reset.readByte a = none) ∧
  State.reset.params.timerMode = .perCycle ∧ State.reset.params.iOverflowBound = 0xFFFF ∧
  State.reset.params.memSize = 0xFFF

/-- R37, R43, R264, R300, R301: reset takes the parameters, the font and the image. It is refused for an image longer than
`MAX_ROM = MEM_SIZE - 0x200`; otherwise the parameters are those given, the font stands at 0x50, the image at 0x200, every other
byte of the `MEM_SIZE` bytes is 0 (D13, log entry 7), and everything else is as after the default reset. A font other than R303's
is the liberty of D16 (log entry 8). -/
def Obligations.ResetLoadsTheImage : Prop :=
  ∀ (p : Params) (font : Vector Byte 80) (rom : List Byte),
    (p.memSize < 0x200 + rom.length → State.resetWith p font rom = none) ∧
    (0x200 + rom.length ≤ p.memSize → ∃ s, State.resetWith p font rom = some s ∧ s.params = p ∧
      Frame [.memory, .params] State.reset s ∧
      (∀ k : Fin 80, s.readByte (0x50 + k.val) = some font[k.val]) ∧
      (∀ k, k < rom.length → s.readByte (0x200 + k) = rom[k]?) ∧
      (∀ a, a < 0x50 ∨ (0xA0 ≤ a ∧ a < 0x200) ∨ (0x200 + rom.length ≤ a ∧ a < p.memSize) → s.readByte a = some 0) ∧
      (∀ a, p.memSize ≤ a → s.readByte a = none))

/-! ### Whole-machine rules -/

/-- The invariant holds at reset. -/
def Obligations.ResetSatisfiesInvariant : Prop := State.reset.Inv

/-- The invariant holds after a reset with any font and image and any parameters whose `MEM_SIZE` keeps `pc` from wrapping (log
entry 11). -/
def Obligations.ResetWithSatisfiesInvariant : Prop :=
  ∀ (p : Params) (font : Vector Byte 80) (rom : List Byte) (s : State), paramsOk p →
    State.resetWith p font rom = some s → s.Inv

/-- R39 and the canonical form (log entry 9): every step from a state that meets the invariant leads to one that meets it. With
`MEM_SIZE` at 0xFFF its bounds are R39's own; at any size that keeps `pc` from wrapping, those the size gives (log entry 11). The
halted clauses rest on the record's layout (D6, D7, log entry 21) and on no wait being in progress after a halt (log entry 22,
DEDUCED). -/
def Obligations.StepKeepsInvariant : Prop :=
  ∀ s t : State, s.Inv → step s = .next t → t.Inv

/-- R38, R126: an instruction that completes changes only the state and the registers its row of the access table names
(the spec's decision D1, log entry 23). -/
def Obligations.InstructionsKeepTheRest : Prop :=
  ∀ (i : Instr) (s t : State), exec i s = .next t → t.run = .running →
    Frame (mayWrite i) s t ∧ RegsKept (mayWriteRegs i) s t

/-- R255, R260(5): `Execute` leaves `run` and the record alone, or raises a fault this instruction can raise, with its record
(the record's layout: D6, D7, log entry 21; `pc - 2` and the word: log entry 14, DEDUCED). -/
def Obligations.ExecuteHaltsOnlyAsItsInstructionCan : Prop :=
  ∀ (i : Instr) (s t : State), exec i s = .next t →
    (t.run = s.run ∧ t.halt = s.halt) ∨
    (∃ reason badAddr, canRaise reason i ∧ t.run = .halted reason ∧
      t.halt = some { cause := reason.code, instrAddr := s.pc - 2, opcode := some (encode i), badAddr := badAddr })

/-- R279 with D14: a step is refused only for a key index of 16 or more. -/
def Obligations.StepRefusesOnlyKeyIndexes : Prop :=
  ∀ (s : State) (r : Refusal), step s = .refused r → ∃ b : Byte, 16 ≤ b.toNat ∧ r = .keyIndexOutOfRange b

/-- R29: no step changes the configuration parameters, `MEM_SIZE` among them (log entries 1, 11). -/
def Obligations.StepKeepsParameters : Prop :=
  ∀ s t : State, step s = .next t → t.params = s.params

/-- R132: `Execute` of every instruction but CXKK, EX9E, EXA1 and FX0A does not depend on the environment's answers. Where it halts
fatally (CALL, RET, DXYN, FX33, FX55, FX65 at a fault) the spec leaves the state other than `run` and `halt` unspecified (R257): that
this state is the same too is the model's choice, its free value `Config.afterHalt` at the clock, which both runs share (log entry
3). The prescribed answers are log entry 2. -/
def Obligations.OtherInstructionsIgnoreInputs : Prop :=
  ∀ (i : Instr) (s : State) (script : List Inputs), readsInputs i = false →
    exec i { s with script := script } = withScript script (exec i s)

/-! ### Encoding (R90 to R97) -/

/-- Decoding the bytes of a well-formed instruction, whatever follows them, gives it back with every operand. That the ignored y
field of 8XY6 and 8XYE is an operand is the model's choice (R95, log entry 15). -/
def Obligations.DecodeOfEncodeIsTheInstruction : Prop :=
  ∀ (i : Instr) (rest : List Byte), i.wellFormed = true → decode (encodeBytes i ++ rest) = .ok (i, rest)

/-- What a word decodes to is well formed and encodes back to the word: no bit is dropped and no two words share an instruction. For
8XY6 and 8XYE that is the model's choice: by R95 all sixteen values of y encode one operation, and `shr` and `shl` keep the field as
an operand that takes no part in execution (log entry 15, DESIGN CHOICE). -/
def Obligations.EncodeOfDecodeIsTheWord : Prop :=
  ∀ (w : Word) (i : Instr), decodeWord w = .ok i → i.wellFormed = true ∧ encode i = w

/-- R96: the decode procedure selects the row that the mask and match columns select, rows 1 and 2 before row 3
(the spec's decision D3, log entry 23). -/
def Obligations.DecodeSelectsTheTableRow : Prop :=
  ∀ w : Word,
    (∀ i, decodeWord w = .ok i → selectedRow w = some (rowOf i)) ∧
    (∀ e, decodeWord w = .error e → e = .illegalOpcode w ∧ selectedRow w = none)

/-- R97: the complete illegal set, by fields. -/
def Obligations.IllegalSetIsComplete : Prop :=
  ∀ w : Word, decodeWord w = .error (.illegalOpcode w) ↔
    ((fieldOp w = 0x5#4 ∨ fieldOp w = 0x9#4) ∧ fieldN w ≠ 0#4) ∨
    (fieldOp w = 0x8#4 ∧ fieldN w ∈ [0x8#4, 0x9#4, 0xA#4, 0xB#4, 0xC#4, 0xD#4, 0xF#4]) ∨
    (fieldOp w = 0xE#4 ∧ fieldKK w ∉ [0x9E#8, 0xA1#8]) ∨
    (fieldOp w = 0xF#4 ∧ fieldKK w ∉
      [0x07#8, 0x0A#8, 0x15#8, 0x18#8, 0x1E#8, 0x29#8, 0x33#8, 0x55#8, 0x65#8, 0x75#8, 0x85#8])

/-- Words written out bit by bit from R96's patterns, one per family, decode to the instructions they stand for. -/
def Obligations.SampleWordsDecode : Prop :=
  decodeWord 0b0000000011101110#16 = .ok .ret ∧
  decodeWord 0b0010001000010000#16 = .ok (.call 0x210#12) ∧
  decodeWord 0b1000001111000111#16 = .ok (.subnReg 3 12) ∧
  decodeWord 0b0110101000001010#16 = .ok (.ldImm 10 0x0A#8) ∧
  decodeWord 0b1111001001100101#16 = .ok (.loadRegs 2) ∧
  decodeWord 0b1100001100001111#16 = .ok (.rnd 3 0x0F#8) ∧
  decodeWord 0b1101000100100101#16 = .ok (.drw 1 2 5#4) ∧
  decodeWord 0b1111111111111111#16 = .error (.illegalOpcode 0xFFFF#16)
end

