-- ==== Sys2Proof/Laws/Memory.lean ====
section
/-! SUPPORT. The laws of memory: reads after writes, the canonical form that every memory operation keeps, and what the multi-byte
transfers do. -/

namespace Sys2Proof.Machine

variable {size : Nat}

/-! ### The canonical form -/

theorem Memory.wf_cons_iff (c : Host.Cell) (rest : Memory) :
    Memory.wf size (c :: rest) = true ↔
      cellOk size c = true ∧ (∀ d ∈ rest, c.1 < d.1) ∧ Memory.wf size rest = true := by
  simp [Memory.wf, and_assoc]

theorem Memory.wf_tail {c : Host.Cell} {rest : Memory} (h : Memory.wf size (c :: rest) = true) : Memory.wf size rest = true :=
  ((Memory.wf_cons_iff c rest).1 h).2.2

/-- An address below every listed one reads as after reset. -/
theorem Memory.lookup_below (m : Memory) (a : Nat) (h : ∀ d ∈ m, a < d.1) : Memory.lookup m a = resetByte a := by
  induction m with
  | nil => rfl
  | cons c rest ih =>
    have hc : a < c.1 := h c (by simp)
    have hne : c.1 ≠ a := by omega
    simp only [Memory.lookup, hne, if_false]
    exact ih fun d hd => h d (by simp [hd])

/-- A cell that `Memory.cons` or `Memory.insert` lists comes from the arguments. -/
theorem Memory.mem_insert {m : Memory} {a : Nat} {b : Byte} {d : Host.Cell} (h : d ∈ Memory.insert m a b) :
    d = (a, b) ∨ d ∈ m := by
  induction m with
  | nil =>
    simp only [Memory.insert, Memory.cons] at h
    split at h <;> simp_all
  | cons c rest ih =>
    simp only [Memory.insert, Memory.cons] at h
    split at h
    · split at h <;> simp_all
    · split at h
      · split at h <;> simp_all
        rcases h with h | h <;> simp [h]
      · simp only [List.mem_cons] at h ⊢
        rcases h with h | h
        · exact .inr (.inl h)
        · rcases ih h with h | h
          · exact .inl h
          · exact .inr (.inr h)

/-- Putting a cell in front keeps the canonical form. -/
theorem Memory.wf_cons_cell {m : Memory} {a : Nat} {b : Byte} (hm : Memory.wf size m = true) (ha : a < size)
    (hlt : ∀ d ∈ m, a < d.1) : Memory.wf size (Memory.cons a b m) = true := by
  unfold Memory.cons
  split
  · exact hm
  · rename_i hb
    exact (Memory.wf_cons_iff _ _).2 ⟨by simp [cellOk, hb]; omega, hlt, hm⟩

/-- Setting a byte of the address space keeps the canonical form. -/
theorem Memory.wf_insert {m : Memory} {a : Nat} {b : Byte} (hm : Memory.wf size m = true) (ha : a < size) :
    Memory.wf size (Memory.insert m a b) = true := by
  induction m with
  | nil => exact Memory.wf_cons_cell hm ha (by simp)
  | cons c rest ih =>
    obtain ⟨hc, hlt, hrest⟩ := (Memory.wf_cons_iff _ _).1 hm
    simp only [Memory.insert]
    split
    · rename_i hac
      refine Memory.wf_cons_cell hm ha fun d hd => ?_
      rcases List.mem_cons.1 hd with rfl | hd
      · exact hac
      · exact Nat.lt_trans hac (hlt d hd)
    · split
      · rename_i hac
        exact Memory.wf_cons_cell hrest ha fun d hd => hac ▸ hlt d hd
      · rename_i hlt' hne
        refine (Memory.wf_cons_iff _ _).2 ⟨hc, fun d hd => ?_, ih hrest⟩
        rcases Memory.mem_insert hd with rfl | hd
        · simp only; omega
        · exact hlt d hd

theorem Memory.wf_write {m m' : Memory} {a : Nat} {b : Byte} (hm : Memory.wf size m = true)
    (h : Memory.write size m a b = some m') : Memory.wf size m' = true := by
  unfold Memory.write at h
  split at h
  · rename_i ha
    cases h
    exact Memory.wf_insert hm ha
  · cases h

theorem Memory.wf_writeBytes {m m' : Memory} {a : Nat} {bs : List Byte} (hm : Memory.wf size m = true)
    (h : Memory.writeBytes size m a bs = .ok m') : Memory.wf size m' = true := by
  induction bs generalizing m a with
  | nil => cases h; exact hm
  | cons b bs ih =>
    simp only [Memory.writeBytes] at h
    split at h
    · cases h
    · rename_i hw
      exact ih (Memory.wf_write hm hw) h

/-- Whatever cells it is made from, a memory is canonical. -/
theorem Memory.wf_ofCells (cells : List Host.Cell) : Memory.wf size (Memory.ofCells size cells) = true := by
  have keeps : ∀ (l : List Host.Cell) (m : Memory), Memory.wf size m = true →
      Memory.wf size (l.foldl (fun m c => (Memory.write size m c.1 c.2).getD m) m) = true := by
    intro l
    induction l with
    | nil => exact fun m hm => hm
    | cons c l ih =>
      intro m hm
      have hstep : Memory.wf size ((Memory.write size m c.1 c.2).getD m) = true := by
        cases hw : Memory.write size m c.1 c.2 with
        | none => exact hm
        | some m' => exact Memory.wf_write hm hw
      exact ih _ hstep
  exact keeps cells [] rfl

/-- The memory after reset lists nothing and is canonical. -/
theorem reset_memory_wf : Memory.wf State.reset.params.memSize State.reset.mem = true := rfl

/-! ### Reads after a write -/

theorem Memory.lookup_cons_self (m : Memory) (a : Nat) (b : Byte) (h : ∀ d ∈ m, a < d.1) :
    Memory.lookup (Memory.cons a b m) a = b := by
  unfold Memory.cons
  split
  · rename_i hb
    rw [Memory.lookup_below m a h, hb]
  · simp [Memory.lookup]

theorem Memory.lookup_cons_of_ne (m : Memory) {a c : Nat} (b : Byte) (h : c ≠ a) :
    Memory.lookup (Memory.cons a b m) c = Memory.lookup m c := by
  unfold Memory.cons
  split
  · rfl
  · simp [Memory.lookup, h.symm]

/-- In a canonical memory a byte reads as what was written. -/
theorem Memory.lookup_insert_self {m : Memory} (hm : Memory.wf size m = true) (a : Nat) (b : Byte) :
    Memory.lookup (Memory.insert m a b) a = b := by
  induction m with
  | nil => exact Memory.lookup_cons_self [] a b (by simp)
  | cons c rest ih =>
    obtain ⟨_, hlt, hrest⟩ := (Memory.wf_cons_iff _ _).1 hm
    simp only [Memory.insert]
    split
    · rename_i hac
      refine Memory.lookup_cons_self _ a b fun d hd => ?_
      rcases List.mem_cons.1 hd with rfl | hd
      · exact hac
      · exact Nat.lt_trans hac (hlt d hd)
    · split
      · rename_i hac
        exact Memory.lookup_cons_self _ a b fun d hd => hac ▸ hlt d hd
      · rename_i hne
        simp only [Memory.lookup, Ne.symm hne, if_false]
        exact ih hrest

/-- Every other byte reads as before (in any memory). -/
theorem Memory.lookup_insert_of_ne (m : Memory) {a c : Nat} (b : Byte) (h : c ≠ a) :
    Memory.lookup (Memory.insert m a b) c = Memory.lookup m c := by
  induction m with
  | nil => exact Memory.lookup_cons_of_ne [] b h
  | cons d rest ih =>
    simp only [Memory.insert]
    split
    · exact Memory.lookup_cons_of_ne _ b h
    · split
      · rename_i had
        rw [Memory.lookup_cons_of_ne rest b h]
        simp [Memory.lookup, ← had, h.symm]
      · simp only [Memory.lookup, ih]

/-- A read is the listed or reset byte exactly inside the address space. -/
theorem Memory.read_of_lt (m : Memory) {a : Nat} (h : a < size) : Memory.read size m a = some (Memory.lookup m a) := by
  simp [Memory.read, h]

theorem Memory.read_of_ge (m : Memory) {a : Nat} (h : size ≤ a) : Memory.read size m a = none := by
  simp [Memory.read, Nat.not_lt.2 h]

/-- A write that succeeds is in range; it gives the byte there and every other byte as before. -/
theorem Memory.write_spec {m m' : Memory} {a : Nat} {b : Byte} (h : Memory.write size m a b = some m') :
    a < size ∧ (Memory.wf size m = true → Memory.read size m' a = some b) ∧
      ∀ c, c ≠ a → Memory.read size m' c = Memory.read size m c := by
  unfold Memory.write at h
  split at h
  · rename_i ha
    cases h
    refine ⟨ha, fun hm => ?_, fun c hc => ?_⟩
    · rw [Memory.read_of_lt _ ha, Memory.lookup_insert_self hm]
    · simp only [Memory.read, Memory.lookup_insert_of_ne m b hc]
  · cases h

/-! ### Transfers of several bytes -/

/-- A read of `n` bytes that succeeds gives the byte at each address, `n` of them. -/
theorem Memory.readBytes_ok {m : Memory} {a n : Nat} {bs : List Byte} (h : Memory.readBytes size m a n = .ok bs) :
    bs.length = n ∧ ∀ k, k < n → Memory.read size m (a + k) = bs[k]? := by
  induction n generalizing a bs with
  | zero => cases h; simp
  | succ n ih =>
    simp only [Memory.readBytes] at h
    split at h
    · cases h
    · rename_i b hb
      split at h
      · cases h
      · rename_i rest hr
        cases h
        obtain ⟨hlen, hget⟩ := ih hr
        refine ⟨by simp [hlen], fun k hk => ?_⟩
        cases k with
        | zero => simpa using hb
        | succ k =>
          have := hget k (by omega)
          rw [show a + (k + 1) = a + 1 + k by omega, this]
          simp

/-- A read of `n` bytes succeeds when every byte is in range. -/
theorem Memory.readBytes_inRange (m : Memory) {a n : Nat} (h : n = 0 ∨ a + n ≤ size) :
    ∃ bs, Memory.readBytes size m a n = .ok bs := by
  induction n generalizing a with
  | zero => exact ⟨[], rfl⟩
  | succ n ih =>
    obtain ⟨bs, hbs⟩ := ih (a := a + 1) (by omega)
    exact ⟨Memory.lookup m a :: bs, by simp [Memory.readBytes, Memory.read_of_lt m (show a < size by omega), hbs]⟩

/-- A read of `n` bytes that leaves the space reports the lowest address outside it. -/
theorem Memory.readBytes_outOfRange (m : Memory) {a n : Nat} (hn : 0 < n) (h : size < a + n) :
    Memory.readBytes size m a n = .error (max a size) := by
  induction n generalizing a with
  | zero => omega
  | succ n ih =>
    by_cases ha : a < size
    · have := ih (a := a + 1) (by omega) (by omega)
      simp only [Memory.readBytes, Memory.read_of_lt m ha, this]
      congr 1; omega
    · simp only [Memory.readBytes, Memory.read_of_ge m (Nat.not_lt.1 ha)]
      congr 1; omega

/-- Byte writes that succeed give each byte at its address and every byte outside as before. -/
theorem Memory.writeBytes_ok {m m' : Memory} {a : Nat} {bs : List Byte} (h : Memory.writeBytes size m a bs = .ok m') :
    (Memory.wf size m = true → ∀ k, k < bs.length → Memory.read size m' (a + k) = bs[k]?) ∧
      ∀ c, (c < a ∨ a + bs.length ≤ c) → Memory.read size m' c = Memory.read size m c := by
  induction bs generalizing m a with
  | nil => cases h; simp
  | cons b bs ih =>
    simp only [Memory.writeBytes] at h
    split at h
    · cases h
    · rename_i m1 hw
      obtain ⟨_, hself, hother⟩ := Memory.write_spec hw
      obtain ⟨hin, hout⟩ := ih h
      refine ⟨fun hm k hk => ?_, fun c hc => ?_⟩
      · cases k with
        | zero =>
          have := hout a (by omega)
          simpa [this] using hself hm
        | succ k =>
          have := hin (Memory.wf_write hm hw) k (by simpa using hk)
          rw [show a + (k + 1) = a + 1 + k by omega, this]
          simp
      · simp only [List.length_cons] at hc
        rw [hout c (by omega), hother c (by omega)]

/-- Byte writes succeed when every byte is in range. -/
theorem Memory.writeBytes_inRange (m : Memory) {a : Nat} (bs : List Byte) (h : bs.length = 0 ∨ a + bs.length ≤ size) :
    ∃ m', Memory.writeBytes size m a bs = .ok m' := by
  induction bs generalizing m a with
  | nil => exact ⟨m, rfl⟩
  | cons b bs ih =>
    simp only [List.length_cons] at h
    obtain ⟨m', hm'⟩ := ih (m := Memory.insert m a b) (a := a + 1) (by omega)
    exact ⟨m', by simp [Memory.writeBytes, Memory.write, show a < size by omega, hm']⟩

/-- Byte writes that leave the space report the lowest address outside it. -/
theorem Memory.writeBytes_outOfRange (m : Memory) {a : Nat} (bs : List Byte) (hn : 0 < bs.length)
    (h : size < a + bs.length) : Memory.writeBytes size m a bs = .error (max a size) := by
  induction bs generalizing m a with
  | nil => simp at hn
  | cons b bs ih =>
    simp only [List.length_cons] at h
    by_cases ha : a < size
    · have := ih (m := Memory.insert m a b) (a := a + 1) (by omega) (by omega)
      simp only [Memory.writeBytes, Memory.write, ha, if_true, this]
      congr 1; omega
    · simp only [Memory.writeBytes, Memory.write, ha, if_false]
      congr 1; omega

/-! ### The fetch's read -/

/-- Two bytes as an opcode, the first the more significant (R62). -/
theorem wordOfBytes_toNat (hi lo : Byte) : (wordOfBytes hi lo).toNat = 256 * hi.toNat + lo.toNat := by
  have h1 := hi.isLt
  have h2 := lo.isLt
  simp only [wordOfBytes, BitVec.toNat_or, BitVec.toNat_shiftLeft, BitVec.toNat_setWidth, Nat.shiftLeft_eq]
  rw [Nat.mod_eq_of_lt (show hi.toNat < 2 ^ 16 by omega), Nat.mod_eq_of_lt (show lo.toNat < 2 ^ 16 by omega),
    Nat.mod_eq_of_lt (show hi.toNat * 2 ^ 8 < 2 ^ 16 by omega), ← Nat.shiftLeft_eq, ← Nat.shiftLeft_add_eq_or_of_lt h2,
    Nat.shiftLeft_eq]
  omega

/-- A read of an opcode succeeds exactly where both bytes are in the space, and reports the lowest address outside it. -/
theorem Memory.readWord_cases (m : Memory) (a : Nat) :
    (a + 1 < size ∧ Memory.readWord size m a = .ok (wordOfBytes (Memory.lookup m a) (Memory.lookup m (a + 1)))) ∨
    (size ≤ a + 1 ∧ Memory.readWord size m a = .error (max a size)) := by
  by_cases h : a + 1 < size
  · exact .inl ⟨h, by simp only [Memory.readWord, Memory.read_of_lt m h, Memory.read_of_lt m (show a < size by omega)]⟩
  · refine .inr ⟨by omega, ?_⟩
    by_cases ha : a < size
    · simp only [Memory.readWord, Memory.read_of_lt m ha, Memory.read_of_ge m (show size ≤ a + 1 by omega)]
      congr 1; omega
    · simp only [Memory.readWord, Memory.read_of_ge m (show size ≤ a by omega)]
      congr 1; omega

end Sys2Proof.Machine
end

