-- ==== Sys2Proof/Laws/State.lean ====
section
/-! SUPPORT. One lemma per field and update of the state, true by `rfl`, so that no proof unfolds a record update; and the two laws of
the register file. -/

namespace Sys2Proof.Machine

/-! ### `setReg` -/

@[simp] theorem State.setReg_i (s : State) (x : Reg) (b : Byte) : (s.setReg x b).i = s.i := rfl
@[simp] theorem State.setReg_pc (s : State) (x : Reg) (b : Byte) : (s.setReg x b).pc = s.pc := rfl
@[simp] theorem State.setReg_sp (s : State) (x : Reg) (b : Byte) : (s.setReg x b).sp = s.sp := rfl
@[simp] theorem State.setReg_stack (s : State) (x : Reg) (b : Byte) : (s.setReg x b).stack = s.stack := rfl
@[simp] theorem State.setReg_dt (s : State) (x : Reg) (b : Byte) : (s.setReg x b).dt = s.dt := rfl
@[simp] theorem State.setReg_st (s : State) (x : Reg) (b : Byte) : (s.setReg x b).st = s.st := rfl
@[simp] theorem State.setReg_uf (s : State) (x : Reg) (b : Byte) : (s.setReg x b).uf = s.uf := rfl
@[simp] theorem State.setReg_readByte (s : State) (x : Reg) (b : Byte) (a : Nat) : (s.setReg x b).readByte a = s.readByte a := rfl
@[simp] theorem State.setReg_mem (s : State) (x : Reg) (b : Byte) : (s.setReg x b).mem = s.mem := rfl
@[simp] theorem State.setReg_disp (s : State) (x : Reg) (b : Byte) : (s.setReg x b).disp = s.disp := rfl
@[simp] theorem State.setReg_run (s : State) (x : Reg) (b : Byte) : (s.setReg x b).run = s.run := rfl
@[simp] theorem State.setReg_halt (s : State) (x : Reg) (b : Byte) : (s.setReg x b).halt = s.halt := rfl
@[simp] theorem State.setReg_wait (s : State) (x : Reg) (b : Byte) : (s.setReg x b).wait = s.wait := rfl
@[simp] theorem State.setReg_params (s : State) (x : Reg) (b : Byte) : (s.setReg x b).params = s.params := rfl
@[simp] theorem State.setReg_script (s : State) (x : Reg) (b : Byte) : (s.setReg x b).script = s.script := rfl
@[simp] theorem State.setReg_clock (s : State) (x : Reg) (b : Byte) : (s.setReg x b).clock = s.clock := rfl
@[simp] theorem State.setReg_inputs (s : State) (x : Reg) (b : Byte) : (s.setReg x b).inputs = s.inputs := rfl

/-! ### `setV` -/

@[simp] theorem State.setV_v (s : State) (v : Vector Byte 16) : (s.setV v).v = v := rfl
@[simp] theorem State.setV_readByte (s : State) (v : Vector Byte 16) (a : Nat) : (s.setV v).readByte a = s.readByte a := rfl
@[simp] theorem State.setV_i (s : State) (v : Vector Byte 16) : (s.setV v).i = s.i := rfl
@[simp] theorem State.setV_pc (s : State) (v : Vector Byte 16) : (s.setV v).pc = s.pc := rfl
@[simp] theorem State.setV_sp (s : State) (v : Vector Byte 16) : (s.setV v).sp = s.sp := rfl
@[simp] theorem State.setV_stack (s : State) (v : Vector Byte 16) : (s.setV v).stack = s.stack := rfl
@[simp] theorem State.setV_dt (s : State) (v : Vector Byte 16) : (s.setV v).dt = s.dt := rfl
@[simp] theorem State.setV_st (s : State) (v : Vector Byte 16) : (s.setV v).st = s.st := rfl
@[simp] theorem State.setV_uf (s : State) (v : Vector Byte 16) : (s.setV v).uf = s.uf := rfl
@[simp] theorem State.setV_mem (s : State) (v : Vector Byte 16) : (s.setV v).mem = s.mem := rfl
@[simp] theorem State.setV_disp (s : State) (v : Vector Byte 16) : (s.setV v).disp = s.disp := rfl
@[simp] theorem State.setV_run (s : State) (v : Vector Byte 16) : (s.setV v).run = s.run := rfl
@[simp] theorem State.setV_halt (s : State) (v : Vector Byte 16) : (s.setV v).halt = s.halt := rfl
@[simp] theorem State.setV_wait (s : State) (v : Vector Byte 16) : (s.setV v).wait = s.wait := rfl
@[simp] theorem State.setV_params (s : State) (v : Vector Byte 16) : (s.setV v).params = s.params := rfl
@[simp] theorem State.setV_script (s : State) (v : Vector Byte 16) : (s.setV v).script = s.script := rfl
@[simp] theorem State.setV_clock (s : State) (v : Vector Byte 16) : (s.setV v).clock = s.clock := rfl
@[simp] theorem State.setV_inputs (s : State) (v : Vector Byte 16) : (s.setV v).inputs = s.inputs := rfl

/-! ### `setI` -/

@[simp] theorem State.setI_v (s : State) (w : Word) : (s.setI w).v = s.v := rfl
@[simp] theorem State.setI_readByte (s : State) (w : Word) (a : Nat) : (s.setI w).readByte a = s.readByte a := rfl
@[simp] theorem State.setI_i (s : State) (w : Word) : (s.setI w).i = w := rfl
@[simp] theorem State.setI_pc (s : State) (w : Word) : (s.setI w).pc = s.pc := rfl
@[simp] theorem State.setI_sp (s : State) (w : Word) : (s.setI w).sp = s.sp := rfl
@[simp] theorem State.setI_stack (s : State) (w : Word) : (s.setI w).stack = s.stack := rfl
@[simp] theorem State.setI_dt (s : State) (w : Word) : (s.setI w).dt = s.dt := rfl
@[simp] theorem State.setI_st (s : State) (w : Word) : (s.setI w).st = s.st := rfl
@[simp] theorem State.setI_uf (s : State) (w : Word) : (s.setI w).uf = s.uf := rfl
@[simp] theorem State.setI_mem (s : State) (w : Word) : (s.setI w).mem = s.mem := rfl
@[simp] theorem State.setI_disp (s : State) (w : Word) : (s.setI w).disp = s.disp := rfl
@[simp] theorem State.setI_run (s : State) (w : Word) : (s.setI w).run = s.run := rfl
@[simp] theorem State.setI_halt (s : State) (w : Word) : (s.setI w).halt = s.halt := rfl
@[simp] theorem State.setI_wait (s : State) (w : Word) : (s.setI w).wait = s.wait := rfl
@[simp] theorem State.setI_params (s : State) (w : Word) : (s.setI w).params = s.params := rfl
@[simp] theorem State.setI_script (s : State) (w : Word) : (s.setI w).script = s.script := rfl
@[simp] theorem State.setI_clock (s : State) (w : Word) : (s.setI w).clock = s.clock := rfl
@[simp] theorem State.setI_reg (s : State) (w : Word) (r : Reg) : (s.setI w).reg r = s.reg r := rfl
@[simp] theorem State.setI_inputs (s : State) (w : Word) : (s.setI w).inputs = s.inputs := rfl

/-! ### `setPc` -/

@[simp] theorem State.setPc_v (s : State) (w : Word) : (s.setPc w).v = s.v := rfl
@[simp] theorem State.setPc_readByte (s : State) (w : Word) (a : Nat) : (s.setPc w).readByte a = s.readByte a := rfl
@[simp] theorem State.setPc_i (s : State) (w : Word) : (s.setPc w).i = s.i := rfl
@[simp] theorem State.setPc_pc (s : State) (w : Word) : (s.setPc w).pc = w := rfl
@[simp] theorem State.setPc_sp (s : State) (w : Word) : (s.setPc w).sp = s.sp := rfl
@[simp] theorem State.setPc_stack (s : State) (w : Word) : (s.setPc w).stack = s.stack := rfl
@[simp] theorem State.setPc_dt (s : State) (w : Word) : (s.setPc w).dt = s.dt := rfl
@[simp] theorem State.setPc_st (s : State) (w : Word) : (s.setPc w).st = s.st := rfl
@[simp] theorem State.setPc_uf (s : State) (w : Word) : (s.setPc w).uf = s.uf := rfl
@[simp] theorem State.setPc_mem (s : State) (w : Word) : (s.setPc w).mem = s.mem := rfl
@[simp] theorem State.setPc_disp (s : State) (w : Word) : (s.setPc w).disp = s.disp := rfl
@[simp] theorem State.setPc_run (s : State) (w : Word) : (s.setPc w).run = s.run := rfl
@[simp] theorem State.setPc_halt (s : State) (w : Word) : (s.setPc w).halt = s.halt := rfl
@[simp] theorem State.setPc_wait (s : State) (w : Word) : (s.setPc w).wait = s.wait := rfl
@[simp] theorem State.setPc_params (s : State) (w : Word) : (s.setPc w).params = s.params := rfl
@[simp] theorem State.setPc_script (s : State) (w : Word) : (s.setPc w).script = s.script := rfl
@[simp] theorem State.setPc_clock (s : State) (w : Word) : (s.setPc w).clock = s.clock := rfl
@[simp] theorem State.setPc_reg (s : State) (w : Word) (r : Reg) : (s.setPc w).reg r = s.reg r := rfl
@[simp] theorem State.setPc_inputs (s : State) (w : Word) : (s.setPc w).inputs = s.inputs := rfl

/-! ### `setDt` -/

@[simp] theorem State.setDt_v (s : State) (b : Byte) : (s.setDt b).v = s.v := rfl
@[simp] theorem State.setDt_readByte (s : State) (b : Byte) (a : Nat) : (s.setDt b).readByte a = s.readByte a := rfl
@[simp] theorem State.setDt_i (s : State) (b : Byte) : (s.setDt b).i = s.i := rfl
@[simp] theorem State.setDt_pc (s : State) (b : Byte) : (s.setDt b).pc = s.pc := rfl
@[simp] theorem State.setDt_sp (s : State) (b : Byte) : (s.setDt b).sp = s.sp := rfl
@[simp] theorem State.setDt_stack (s : State) (b : Byte) : (s.setDt b).stack = s.stack := rfl
@[simp] theorem State.setDt_dt (s : State) (b : Byte) : (s.setDt b).dt = b := rfl
@[simp] theorem State.setDt_st (s : State) (b : Byte) : (s.setDt b).st = s.st := rfl
@[simp] theorem State.setDt_uf (s : State) (b : Byte) : (s.setDt b).uf = s.uf := rfl
@[simp] theorem State.setDt_mem (s : State) (b : Byte) : (s.setDt b).mem = s.mem := rfl
@[simp] theorem State.setDt_disp (s : State) (b : Byte) : (s.setDt b).disp = s.disp := rfl
@[simp] theorem State.setDt_run (s : State) (b : Byte) : (s.setDt b).run = s.run := rfl
@[simp] theorem State.setDt_halt (s : State) (b : Byte) : (s.setDt b).halt = s.halt := rfl
@[simp] theorem State.setDt_wait (s : State) (b : Byte) : (s.setDt b).wait = s.wait := rfl
@[simp] theorem State.setDt_params (s : State) (b : Byte) : (s.setDt b).params = s.params := rfl
@[simp] theorem State.setDt_script (s : State) (b : Byte) : (s.setDt b).script = s.script := rfl
@[simp] theorem State.setDt_clock (s : State) (b : Byte) : (s.setDt b).clock = s.clock := rfl
@[simp] theorem State.setDt_reg (s : State) (b : Byte) (r : Reg) : (s.setDt b).reg r = s.reg r := rfl
@[simp] theorem State.setDt_inputs (s : State) (b : Byte) : (s.setDt b).inputs = s.inputs := rfl

/-! ### `setSt` -/

@[simp] theorem State.setSt_v (s : State) (b : Byte) : (s.setSt b).v = s.v := rfl
@[simp] theorem State.setSt_readByte (s : State) (b : Byte) (a : Nat) : (s.setSt b).readByte a = s.readByte a := rfl
@[simp] theorem State.setSt_i (s : State) (b : Byte) : (s.setSt b).i = s.i := rfl
@[simp] theorem State.setSt_pc (s : State) (b : Byte) : (s.setSt b).pc = s.pc := rfl
@[simp] theorem State.setSt_sp (s : State) (b : Byte) : (s.setSt b).sp = s.sp := rfl
@[simp] theorem State.setSt_stack (s : State) (b : Byte) : (s.setSt b).stack = s.stack := rfl
@[simp] theorem State.setSt_dt (s : State) (b : Byte) : (s.setSt b).dt = s.dt := rfl
@[simp] theorem State.setSt_st (s : State) (b : Byte) : (s.setSt b).st = b := rfl
@[simp] theorem State.setSt_uf (s : State) (b : Byte) : (s.setSt b).uf = s.uf := rfl
@[simp] theorem State.setSt_mem (s : State) (b : Byte) : (s.setSt b).mem = s.mem := rfl
@[simp] theorem State.setSt_disp (s : State) (b : Byte) : (s.setSt b).disp = s.disp := rfl
@[simp] theorem State.setSt_run (s : State) (b : Byte) : (s.setSt b).run = s.run := rfl
@[simp] theorem State.setSt_halt (s : State) (b : Byte) : (s.setSt b).halt = s.halt := rfl
@[simp] theorem State.setSt_wait (s : State) (b : Byte) : (s.setSt b).wait = s.wait := rfl
@[simp] theorem State.setSt_params (s : State) (b : Byte) : (s.setSt b).params = s.params := rfl
@[simp] theorem State.setSt_script (s : State) (b : Byte) : (s.setSt b).script = s.script := rfl
@[simp] theorem State.setSt_clock (s : State) (b : Byte) : (s.setSt b).clock = s.clock := rfl
@[simp] theorem State.setSt_reg (s : State) (b : Byte) (r : Reg) : (s.setSt b).reg r = s.reg r := rfl
@[simp] theorem State.setSt_inputs (s : State) (b : Byte) : (s.setSt b).inputs = s.inputs := rfl

/-! ### `setUf` -/

@[simp] theorem State.setUf_v (s : State) (uf : Vector Byte 8) : (s.setUf uf).v = s.v := rfl
@[simp] theorem State.setUf_readByte (s : State) (uf : Vector Byte 8) (a : Nat) : (s.setUf uf).readByte a = s.readByte a := rfl
@[simp] theorem State.setUf_i (s : State) (uf : Vector Byte 8) : (s.setUf uf).i = s.i := rfl
@[simp] theorem State.setUf_pc (s : State) (uf : Vector Byte 8) : (s.setUf uf).pc = s.pc := rfl
@[simp] theorem State.setUf_sp (s : State) (uf : Vector Byte 8) : (s.setUf uf).sp = s.sp := rfl
@[simp] theorem State.setUf_stack (s : State) (uf : Vector Byte 8) : (s.setUf uf).stack = s.stack := rfl
@[simp] theorem State.setUf_dt (s : State) (uf : Vector Byte 8) : (s.setUf uf).dt = s.dt := rfl
@[simp] theorem State.setUf_st (s : State) (uf : Vector Byte 8) : (s.setUf uf).st = s.st := rfl
@[simp] theorem State.setUf_uf (s : State) (uf : Vector Byte 8) : (s.setUf uf).uf = uf := rfl
@[simp] theorem State.setUf_mem (s : State) (uf : Vector Byte 8) : (s.setUf uf).mem = s.mem := rfl
@[simp] theorem State.setUf_disp (s : State) (uf : Vector Byte 8) : (s.setUf uf).disp = s.disp := rfl
@[simp] theorem State.setUf_run (s : State) (uf : Vector Byte 8) : (s.setUf uf).run = s.run := rfl
@[simp] theorem State.setUf_halt (s : State) (uf : Vector Byte 8) : (s.setUf uf).halt = s.halt := rfl
@[simp] theorem State.setUf_wait (s : State) (uf : Vector Byte 8) : (s.setUf uf).wait = s.wait := rfl
@[simp] theorem State.setUf_params (s : State) (uf : Vector Byte 8) : (s.setUf uf).params = s.params := rfl
@[simp] theorem State.setUf_script (s : State) (uf : Vector Byte 8) : (s.setUf uf).script = s.script := rfl
@[simp] theorem State.setUf_clock (s : State) (uf : Vector Byte 8) : (s.setUf uf).clock = s.clock := rfl
@[simp] theorem State.setUf_reg (s : State) (uf : Vector Byte 8) (r : Reg) : (s.setUf uf).reg r = s.reg r := rfl
@[simp] theorem State.setUf_inputs (s : State) (uf : Vector Byte 8) : (s.setUf uf).inputs = s.inputs := rfl

/-! ### `setMem` -/

@[simp] theorem State.setMem_v (s : State) (m : Memory) : (s.setMem m).v = s.v := rfl
@[simp] theorem State.setMem_i (s : State) (m : Memory) : (s.setMem m).i = s.i := rfl
@[simp] theorem State.setMem_pc (s : State) (m : Memory) : (s.setMem m).pc = s.pc := rfl
@[simp] theorem State.setMem_sp (s : State) (m : Memory) : (s.setMem m).sp = s.sp := rfl
@[simp] theorem State.setMem_stack (s : State) (m : Memory) : (s.setMem m).stack = s.stack := rfl
@[simp] theorem State.setMem_dt (s : State) (m : Memory) : (s.setMem m).dt = s.dt := rfl
@[simp] theorem State.setMem_st (s : State) (m : Memory) : (s.setMem m).st = s.st := rfl
@[simp] theorem State.setMem_uf (s : State) (m : Memory) : (s.setMem m).uf = s.uf := rfl
@[simp] theorem State.setMem_readByte (s : State) (m : Memory) (a : Nat) :
    (s.setMem m).readByte a = Memory.read s.params.memSize m a := rfl
@[simp] theorem State.setMem_mem (s : State) (m : Memory) : (s.setMem m).mem = m := rfl
@[simp] theorem State.setMem_disp (s : State) (m : Memory) : (s.setMem m).disp = s.disp := rfl
@[simp] theorem State.setMem_run (s : State) (m : Memory) : (s.setMem m).run = s.run := rfl
@[simp] theorem State.setMem_halt (s : State) (m : Memory) : (s.setMem m).halt = s.halt := rfl
@[simp] theorem State.setMem_wait (s : State) (m : Memory) : (s.setMem m).wait = s.wait := rfl
@[simp] theorem State.setMem_params (s : State) (m : Memory) : (s.setMem m).params = s.params := rfl
@[simp] theorem State.setMem_script (s : State) (m : Memory) : (s.setMem m).script = s.script := rfl
@[simp] theorem State.setMem_clock (s : State) (m : Memory) : (s.setMem m).clock = s.clock := rfl
@[simp] theorem State.setMem_reg (s : State) (m : Memory) (r : Reg) : (s.setMem m).reg r = s.reg r := rfl
@[simp] theorem State.setMem_inputs (s : State) (m : Memory) : (s.setMem m).inputs = s.inputs := rfl

/-! ### `setDisp` -/

@[simp] theorem State.setDisp_v (s : State) (d : Display) : (s.setDisp d).v = s.v := rfl
@[simp] theorem State.setDisp_readByte (s : State) (d : Display) (a : Nat) : (s.setDisp d).readByte a = s.readByte a := rfl
@[simp] theorem State.setDisp_i (s : State) (d : Display) : (s.setDisp d).i = s.i := rfl
@[simp] theorem State.setDisp_pc (s : State) (d : Display) : (s.setDisp d).pc = s.pc := rfl
@[simp] theorem State.setDisp_sp (s : State) (d : Display) : (s.setDisp d).sp = s.sp := rfl
@[simp] theorem State.setDisp_stack (s : State) (d : Display) : (s.setDisp d).stack = s.stack := rfl
@[simp] theorem State.setDisp_dt (s : State) (d : Display) : (s.setDisp d).dt = s.dt := rfl
@[simp] theorem State.setDisp_st (s : State) (d : Display) : (s.setDisp d).st = s.st := rfl
@[simp] theorem State.setDisp_uf (s : State) (d : Display) : (s.setDisp d).uf = s.uf := rfl
@[simp] theorem State.setDisp_mem (s : State) (d : Display) : (s.setDisp d).mem = s.mem := rfl
@[simp] theorem State.setDisp_disp (s : State) (d : Display) : (s.setDisp d).disp = d := rfl
@[simp] theorem State.setDisp_run (s : State) (d : Display) : (s.setDisp d).run = s.run := rfl
@[simp] theorem State.setDisp_halt (s : State) (d : Display) : (s.setDisp d).halt = s.halt := rfl
@[simp] theorem State.setDisp_wait (s : State) (d : Display) : (s.setDisp d).wait = s.wait := rfl
@[simp] theorem State.setDisp_params (s : State) (d : Display) : (s.setDisp d).params = s.params := rfl
@[simp] theorem State.setDisp_script (s : State) (d : Display) : (s.setDisp d).script = s.script := rfl
@[simp] theorem State.setDisp_clock (s : State) (d : Display) : (s.setDisp d).clock = s.clock := rfl
@[simp] theorem State.setDisp_reg (s : State) (d : Display) (r : Reg) : (s.setDisp d).reg r = s.reg r := rfl
@[simp] theorem State.setDisp_inputs (s : State) (d : Display) : (s.setDisp d).inputs = s.inputs := rfl

/-! ### `setWait` -/

@[simp] theorem State.setWait_v (s : State) (w : Option KeyWait) : (s.setWait w).v = s.v := rfl
@[simp] theorem State.setWait_readByte (s : State) (w : Option KeyWait) (a : Nat) : (s.setWait w).readByte a = s.readByte a := rfl
@[simp] theorem State.setWait_i (s : State) (w : Option KeyWait) : (s.setWait w).i = s.i := rfl
@[simp] theorem State.setWait_pc (s : State) (w : Option KeyWait) : (s.setWait w).pc = s.pc := rfl
@[simp] theorem State.setWait_sp (s : State) (w : Option KeyWait) : (s.setWait w).sp = s.sp := rfl
@[simp] theorem State.setWait_stack (s : State) (w : Option KeyWait) : (s.setWait w).stack = s.stack := rfl
@[simp] theorem State.setWait_dt (s : State) (w : Option KeyWait) : (s.setWait w).dt = s.dt := rfl
@[simp] theorem State.setWait_st (s : State) (w : Option KeyWait) : (s.setWait w).st = s.st := rfl
@[simp] theorem State.setWait_uf (s : State) (w : Option KeyWait) : (s.setWait w).uf = s.uf := rfl
@[simp] theorem State.setWait_mem (s : State) (w : Option KeyWait) : (s.setWait w).mem = s.mem := rfl
@[simp] theorem State.setWait_disp (s : State) (w : Option KeyWait) : (s.setWait w).disp = s.disp := rfl
@[simp] theorem State.setWait_run (s : State) (w : Option KeyWait) : (s.setWait w).run = s.run := rfl
@[simp] theorem State.setWait_halt (s : State) (w : Option KeyWait) : (s.setWait w).halt = s.halt := rfl
@[simp] theorem State.setWait_wait (s : State) (w : Option KeyWait) : (s.setWait w).wait = w := rfl
@[simp] theorem State.setWait_params (s : State) (w : Option KeyWait) : (s.setWait w).params = s.params := rfl
@[simp] theorem State.setWait_script (s : State) (w : Option KeyWait) : (s.setWait w).script = s.script := rfl
@[simp] theorem State.setWait_clock (s : State) (w : Option KeyWait) : (s.setWait w).clock = s.clock := rfl
@[simp] theorem State.setWait_reg (s : State) (w : Option KeyWait) (r : Reg) : (s.setWait w).reg r = s.reg r := rfl
@[simp] theorem State.setWait_inputs (s : State) (w : Option KeyWait) : (s.setWait w).inputs = s.inputs := rfl

/-! ### `advancePc` -/

@[simp] theorem State.advancePc_v (s : State) : (s.advancePc).v = s.v := rfl
@[simp] theorem State.advancePc_readByte (s : State) (a : Nat) : (s.advancePc).readByte a = s.readByte a := rfl
@[simp] theorem State.advancePc_i (s : State) : (s.advancePc).i = s.i := rfl
@[simp] theorem State.advancePc_pc (s : State) : (s.advancePc).pc = s.pc + 2 := rfl
@[simp] theorem State.advancePc_sp (s : State) : (s.advancePc).sp = s.sp := rfl
@[simp] theorem State.advancePc_stack (s : State) : (s.advancePc).stack = s.stack := rfl
@[simp] theorem State.advancePc_dt (s : State) : (s.advancePc).dt = s.dt := rfl
@[simp] theorem State.advancePc_st (s : State) : (s.advancePc).st = s.st := rfl
@[simp] theorem State.advancePc_uf (s : State) : (s.advancePc).uf = s.uf := rfl
@[simp] theorem State.advancePc_mem (s : State) : (s.advancePc).mem = s.mem := rfl
@[simp] theorem State.advancePc_disp (s : State) : (s.advancePc).disp = s.disp := rfl
@[simp] theorem State.advancePc_run (s : State) : (s.advancePc).run = s.run := rfl
@[simp] theorem State.advancePc_halt (s : State) : (s.advancePc).halt = s.halt := rfl
@[simp] theorem State.advancePc_wait (s : State) : (s.advancePc).wait = s.wait := rfl
@[simp] theorem State.advancePc_params (s : State) : (s.advancePc).params = s.params := rfl
@[simp] theorem State.advancePc_script (s : State) : (s.advancePc).script = s.script := rfl
@[simp] theorem State.advancePc_clock (s : State) : (s.advancePc).clock = s.clock := rfl
@[simp] theorem State.advancePc_reg (s : State)  (r : Reg) : (s.advancePc).reg r = s.reg r := rfl
@[simp] theorem State.advancePc_inputs (s : State) : (s.advancePc).inputs = s.inputs := rfl

/-! ### `skipIf` -/

@[simp] theorem State.skipIf_v (s : State) (c : Bool) : (s.skipIf c).v = s.v := rfl
@[simp] theorem State.skipIf_readByte (s : State) (c : Bool) (a : Nat) : (s.skipIf c).readByte a = s.readByte a := rfl
@[simp] theorem State.skipIf_i (s : State) (c : Bool) : (s.skipIf c).i = s.i := rfl
@[simp] theorem State.skipIf_pc (s : State) (c : Bool) : (s.skipIf c).pc = (if c then s.pc + 2 else s.pc) := rfl
@[simp] theorem State.skipIf_sp (s : State) (c : Bool) : (s.skipIf c).sp = s.sp := rfl
@[simp] theorem State.skipIf_stack (s : State) (c : Bool) : (s.skipIf c).stack = s.stack := rfl
@[simp] theorem State.skipIf_dt (s : State) (c : Bool) : (s.skipIf c).dt = s.dt := rfl
@[simp] theorem State.skipIf_st (s : State) (c : Bool) : (s.skipIf c).st = s.st := rfl
@[simp] theorem State.skipIf_uf (s : State) (c : Bool) : (s.skipIf c).uf = s.uf := rfl
@[simp] theorem State.skipIf_mem (s : State) (c : Bool) : (s.skipIf c).mem = s.mem := rfl
@[simp] theorem State.skipIf_disp (s : State) (c : Bool) : (s.skipIf c).disp = s.disp := rfl
@[simp] theorem State.skipIf_run (s : State) (c : Bool) : (s.skipIf c).run = s.run := rfl
@[simp] theorem State.skipIf_halt (s : State) (c : Bool) : (s.skipIf c).halt = s.halt := rfl
@[simp] theorem State.skipIf_wait (s : State) (c : Bool) : (s.skipIf c).wait = s.wait := rfl
@[simp] theorem State.skipIf_params (s : State) (c : Bool) : (s.skipIf c).params = s.params := rfl
@[simp] theorem State.skipIf_script (s : State) (c : Bool) : (s.skipIf c).script = s.script := rfl
@[simp] theorem State.skipIf_clock (s : State) (c : Bool) : (s.skipIf c).clock = s.clock := rfl
@[simp] theorem State.skipIf_reg (s : State) (c : Bool) (r : Reg) : (s.skipIf c).reg r = s.reg r := rfl
@[simp] theorem State.skipIf_inputs (s : State) (c : Bool) : (s.skipIf c).inputs = s.inputs := rfl

/-! ### `nextInputs` -/

@[simp] theorem State.nextInputs_v (s : State) : (s.nextInputs).v = s.v := rfl
@[simp] theorem State.nextInputs_readByte (s : State) (a : Nat) : (s.nextInputs).readByte a = s.readByte a := rfl
@[simp] theorem State.nextInputs_i (s : State) : (s.nextInputs).i = s.i := rfl
@[simp] theorem State.nextInputs_pc (s : State) : (s.nextInputs).pc = s.pc := rfl
@[simp] theorem State.nextInputs_sp (s : State) : (s.nextInputs).sp = s.sp := rfl
@[simp] theorem State.nextInputs_stack (s : State) : (s.nextInputs).stack = s.stack := rfl
@[simp] theorem State.nextInputs_dt (s : State) : (s.nextInputs).dt = s.dt := rfl
@[simp] theorem State.nextInputs_st (s : State) : (s.nextInputs).st = s.st := rfl
@[simp] theorem State.nextInputs_uf (s : State) : (s.nextInputs).uf = s.uf := rfl
@[simp] theorem State.nextInputs_mem (s : State) : (s.nextInputs).mem = s.mem := rfl
@[simp] theorem State.nextInputs_disp (s : State) : (s.nextInputs).disp = s.disp := rfl
@[simp] theorem State.nextInputs_run (s : State) : (s.nextInputs).run = s.run := rfl
@[simp] theorem State.nextInputs_halt (s : State) : (s.nextInputs).halt = s.halt := rfl
@[simp] theorem State.nextInputs_wait (s : State) : (s.nextInputs).wait = s.wait := rfl
@[simp] theorem State.nextInputs_params (s : State) : (s.nextInputs).params = s.params := rfl
@[simp] theorem State.nextInputs_reg (s : State)  (r : Reg) : (s.nextInputs).reg r = s.reg r := rfl

/-! ### `quit` -/

@[simp] theorem State.quit_v (s : State) : (s.quit).v = s.v := rfl
@[simp] theorem State.quit_readByte (s : State) (a : Nat) : (s.quit).readByte a = s.readByte a := rfl
@[simp] theorem State.quit_i (s : State) : (s.quit).i = s.i := rfl
@[simp] theorem State.quit_pc (s : State) : (s.quit).pc = s.pc := rfl
@[simp] theorem State.quit_sp (s : State) : (s.quit).sp = s.sp := rfl
@[simp] theorem State.quit_stack (s : State) : (s.quit).stack = s.stack := rfl
@[simp] theorem State.quit_dt (s : State) : (s.quit).dt = s.dt := rfl
@[simp] theorem State.quit_st (s : State) : (s.quit).st = s.st := rfl
@[simp] theorem State.quit_uf (s : State) : (s.quit).uf = s.uf := rfl
@[simp] theorem State.quit_mem (s : State) : (s.quit).mem = s.mem := rfl
@[simp] theorem State.quit_disp (s : State) : (s.quit).disp = s.disp := rfl
@[simp] theorem State.quit_wait (s : State) : (s.quit).wait = s.wait := rfl
@[simp] theorem State.quit_params (s : State) : (s.quit).params = s.params := rfl
@[simp] theorem State.quit_script (s : State) : (s.quit).script = s.script := rfl
@[simp] theorem State.quit_clock (s : State) : (s.quit).clock = s.clock := rfl
@[simp] theorem State.quit_reg (s : State)  (r : Reg) : (s.quit).reg r = s.reg r := rfl
@[simp] theorem State.quit_inputs (s : State) : (s.quit).inputs = s.inputs := rfl

@[simp] theorem State.nextInputs_script (s : State) : s.nextInputs.script = s.script.tail := rfl
@[simp] theorem State.nextInputs_clock (s : State) : s.nextInputs.clock = s.clock + 1 := rfl
@[simp] theorem State.quit_run (s : State) : s.quit.run = .halted .userQuit := rfl
@[simp] theorem State.quit_halt (s : State) :
    s.quit.halt = some { cause := 1, instrAddr := s.pc, opcode := none, badAddr := none } := rfl

/-! ### Reading a register after a write -/

/-- A write to `V[x]` is what a read of `V[x]` gives. -/
@[simp] theorem State.setReg_reg_self (s : State) (x : Reg) (b : Byte) : (s.setReg x b).reg x = b := by
  simp [State.reg, State.setReg]

/-- A write to `V[x]` leaves every other register alone. -/
theorem State.setReg_reg_of_ne (s : State) (x r : Reg) (b : Byte) (h : r ≠ x) : (s.setReg x b).reg r = s.reg r := by
  have h' : x.val ≠ r.val := fun e => h (Fin.ext e.symm)
  simp [State.reg, State.setReg, Vector.getElem_set_ne, h']

/-- Both at once. -/
theorem State.setReg_reg (s : State) (x r : Reg) (b : Byte) : (s.setReg x b).reg r = if r = x then b else s.reg r := by
  by_cases h : r = x
  · subst h; simp
  · simp [h, State.setReg_reg_of_ne]

/-! ### A fatal halt: `run`, `halt`, the wait and the model's own fields -/

@[simp] theorem State.fatalHalt_run (s : State) (a : Word) (r : HaltReason) (op : Option Word) (bad : Option Nat) :
    (s.fatalHalt a r op bad).run = .halted r := rfl
@[simp] theorem State.fatalHalt_halt (s : State) (a : Word) (r : HaltReason) (op : Option Word) (bad : Option Nat) :
    (s.fatalHalt a r op bad).halt = some { cause := r.code, instrAddr := a, opcode := op, badAddr := bad } := rfl
@[simp] theorem State.fatalHalt_wait (s : State) (a : Word) (r : HaltReason) (op : Option Word) (bad : Option Nat) :
    (s.fatalHalt a r op bad).wait = none := rfl
@[simp] theorem State.fatalHalt_params (s : State) (a : Word) (r : HaltReason) (op : Option Word) (bad : Option Nat) :
    (s.fatalHalt a r op bad).params = s.params := rfl
@[simp] theorem State.fatalHalt_script (s : State) (a : Word) (r : HaltReason) (op : Option Word) (bad : Option Nat) :
    (s.fatalHalt a r op bad).script = s.script := rfl
@[simp] theorem State.fatalHalt_clock (s : State) (a : Word) (r : HaltReason) (op : Option Word) (bad : Option Nat) :
    (s.fatalHalt a r op bad).clock = s.clock := rfl
@[simp] theorem State.raise_run (s : State) (i : Instr) (r : HaltReason) (bad : Option Nat) :
    (s.raise i r bad).run = .halted r := rfl
@[simp] theorem State.raise_halt (s : State) (i : Instr) (r : HaltReason) (bad : Option Nat) :
    (s.raise i r bad).halt =
      some { cause := r.code, instrAddr := s.pc - 2, opcode := some (encode i), badAddr := bad } := rfl
@[simp] theorem State.raise_wait (s : State) (i : Instr) (r : HaltReason) (bad : Option Nat) :
    (s.raise i r bad).wait = none := rfl
@[simp] theorem State.raise_params (s : State) (i : Instr) (r : HaltReason) (bad : Option Nat) :
    (s.raise i r bad).params = s.params := rfl

end Sys2Proof.Machine
end

