-- ==== Sys2Proof/Laws/Ops.lean ====
section
/-! SUPPORT. One lemma per shared operation that says everything it can do: the call stack, stores, register-range transfers, the
display, the key wait, the phases around `Execute`. -/

namespace Sys2Proof.Machine

/-! ### The call stack -/

/-- A push succeeds exactly below 16 and then writes the entry at SP and raises SP. -/
theorem State.push_cases (s : State) (w : Word) :
    (s.sp.val = 16 ∧ s.push w = none) ∨
    ∃ (h : s.sp.val < 16), s.push w =
      some { s with stack := s.stack.set s.sp.val w, sp := ⟨s.sp.val + 1, by omega⟩ } := by
  by_cases h : s.sp.val < 16
  · exact .inr ⟨h, by simp [State.push, h]⟩
  · exact .inl ⟨by omega, by simp [State.push, h]⟩

/-- A pop succeeds exactly above 0 and then lowers SP and gives the entry there. -/
theorem State.pop_cases (s : State) :
    (s.sp.val = 0 ∧ s.pop = none) ∨
    ∃ (_ : 0 < s.sp.val), s.pop =
      some (s.stack[s.sp.val - 1]'(by omega), { s with sp := ⟨s.sp.val - 1, by omega⟩ }) := by
  by_cases h : 0 < s.sp.val
  · exact .inr ⟨h, by simp [State.pop, h]⟩
  · exact .inl ⟨by omega, by simp [State.pop, h]⟩

/-! ### Stores -/

/-- A store either writes its bytes and nothing else, or raises `AddressOutOfRange` at the address the writes reported. -/
theorem State.storeBytes_cases (s : State) (i : Instr) (a : Nat) (bs : List Byte) :
    (∃ m, Memory.writeBytes s.params.memSize s.mem a bs = .ok m ∧ s.storeBytes i a bs = s.setMem m) ∨
    (∃ bad, Memory.writeBytes s.params.memSize s.mem a bs = .error bad ∧
      s.storeBytes i a bs = s.raise i .addressOutOfRange (some bad)) := by
  cases h : Memory.writeBytes s.params.memSize s.mem a bs with
  | ok m => exact .inl ⟨m, rfl, by simp [State.storeBytes, h]⟩
  | error bad => exact .inr ⟨bad, rfl, by simp [State.storeBytes, h]⟩

/-! ### Register-range transfers -/

/-- An overwrite from index `k` on replaces the entries the list covers and no other. -/
theorem overwriteFrom_getElem {n : Nat} (v : Vector Byte n) (k : Nat) (bs : List Byte) (j : Nat) (hj : j < n) :
    (overwriteFrom v k bs)[j] = if k ≤ j then (bs[j - k]?).getD v[j] else v[j] := by
  induction bs generalizing v k with
  | nil => simp [overwriteFrom]
  | cons b bs ih =>
    rw [overwriteFrom, ih]
    by_cases h : k ≤ j
    · by_cases hk : j = k
      · subst hk
        simp [show ¬ (j + 1 ≤ j) by omega]
      · have hk' : k + 1 ≤ j := by omega
        have hne : k ≠ j := fun e => hk e.symm
        rw [show j - k = (j - (k + 1)) + 1 by omega]
        simp [h, hk', Vector.getElem_setIfInBounds_ne, hne]
    · have hne : k ≠ j := by omega
      simp [h, show ¬ (k + 1 ≤ j) by omega, Vector.getElem_setIfInBounds_ne, hne]

/-- The first entries of a bank, as many as asked for and as there are. -/
theorem firstEntries_getElem? {n : Nat} (v : Vector Byte n) (count j : Nat) :
    (firstEntries v count)[j]? = if j < count then v[j]? else none := by
  simp [firstEntries, List.getElem?_take]

theorem firstEntries_length {n : Nat} (v : Vector Byte n) (count : Nat) :
    (firstEntries v count).length = min count n := by
  simp [firstEntries]

/-! ### Display -/

/-- A toggle changes its pixel and no other. -/
theorem Display.pixel_toggle (d : Display) (r r' : Fin 32) (c c' : Fin 64) :
    Display.pixel (Display.toggle d r c) r' c' =
      if r' = r ∧ c' = c then !Display.pixel d r c else Display.pixel d r' c' := by
  by_cases hr : r' = r
  · subst hr
    by_cases hc : c' = c
    · subst hc; simp [Display.pixel, Display.toggle]
    · have : c.val ≠ c'.val := fun e => hc (Fin.ext e.symm)
      simp [Display.pixel, Display.toggle, Vector.getElem_set_ne, this, hc]
  · have : r.val ≠ r'.val := fun e => hr (Fin.ext e.symm)
    simp [Display.pixel, Display.toggle, Vector.getElem_set_ne, this, hr]

@[simp] theorem Display.pixel_blank (r : Fin 32) (c : Fin 64) : Display.pixel Display.blank r c = false := by
  simp [Display.pixel, Display.blank]

/-! ### The key wait -/

theorem mem_allKeys (k : Key) : k ∈ allKeys := by
  revert k; decide

/-- No key differs exactly when the two key states are the same. -/
theorem lowestChange_eq_none (snapshot now : Keys) : lowestChange snapshot now = none ↔ now = snapshot := by
  simp only [lowestChange, List.find?_eq_none]
  constructor
  · intro h
    ext k hk
    have := h ⟨k, hk⟩ (mem_allKeys _)
    simpa using (by simpa using this : snapshot[k] = now[k]).symm
  · rintro rfl k _
    simp

/-- A wait either ends with the key written and nothing in flight, or leaves the engine blocked on the same snapshot. -/
theorem State.waitKey_cases (s : State) (w : KeyWait) :
    (∃ k, firstChange w.snapshot s.inputs.keyPolls = some k ∧
      s.waitKey w = (s.setWait none).setReg w.x (BitVec.ofNat 8 k.val)) ∨
    (firstChange w.snapshot s.inputs.keyPolls = none ∧ s.waitKey w = s.setWait (some w)) := by
  cases h : firstChange w.snapshot s.inputs.keyPolls with
  | none => exact .inr ⟨rfl, by simp [State.waitKey, h]⟩
  | some k => exact .inl ⟨k, rfl, by simp [State.waitKey, h]⟩

/-! ### The phases around `Execute` -/

/-- Every way the phases before `Execute` can go (R260), in order. -/
theorem State.prepare_cases (s : State) :
    (∃ reason, s.run = .halted reason ∧ s.prepare = .done s) ∨
    (∃ w, s.run = .running ∧ s.wait = some w ∧ s.prepare = .done (s.waitKey w).endStep) ∨
    (s.run = .running ∧ s.wait = none ∧ s.inputs.poll = .quit ∧ s.prepare = .done s.quit) ∨
    (s.run = .running ∧ s.wait = none ∧ s.inputs.poll = .goOn ∧ s.prepare = s.fetchDecode) := by
  cases hr : s.run with
  | halted reason => exact .inl ⟨reason, rfl, by simp [State.prepare, hr]⟩
  | running =>
    cases hw : s.wait with
    | some w => exact .inr (.inl ⟨w, rfl, rfl, by simp [State.prepare, hr, hw]⟩)
    | none =>
      cases hp : s.inputs.poll with
      | quit => exact .inr (.inr (.inl ⟨rfl, rfl, rfl, by simp [State.prepare, hr, hw, hp]⟩))
      | goOn => exact .inr (.inr (.inr ⟨rfl, rfl, rfl, by simp [State.prepare, hr, hw, hp]⟩))

/-- Every way the fetch and the decode can go. -/
theorem State.fetchDecode_cases (s : State) :
    (∃ bad, s.fetch = .error bad ∧
      s.fetchDecode = .done (s.fatalHalt s.pc .addressOutOfRange none (some bad))) ∨
    (∃ w e, s.fetch = .ok w ∧ decodeWord w = .error e ∧
      s.fetchDecode = .done (s.advancePc.fatalHalt s.pc .illegalOpcode (some w) none)) ∨
    (∃ w i, s.fetch = .ok w ∧ decodeWord w = .ok i ∧ s.fetchDecode = .execute i s.advancePc) := by
  cases hf : s.fetch with
  | error bad => exact .inl ⟨bad, rfl, by simp [State.fetchDecode, hf]⟩
  | ok w =>
    cases hd : decodeWord w with
    | error e => exact .inr (.inl ⟨w, e, rfl, hd, by simp [State.fetchDecode, hf, hd]⟩)
    | ok i => exact .inr (.inr ⟨w, i, rfl, hd, by simp [State.fetchDecode, hf, hd]⟩)

/-- The end of a step, by what `Execute` left. -/
theorem State.endStep_cases (s : State) :
    (∃ reason, s.run = .halted reason ∧ s.endStep = s) ∨
    (∃ w, s.run = .running ∧ s.wait = some w ∧ s.endStep = s.nextInputs) ∨
    (s.run = .running ∧ s.wait = none ∧ s.endStep = s.timerPhase.nextInputs) := by
  cases hr : s.run with
  | halted reason => exact .inl ⟨reason, rfl, by simp [State.endStep, hr]⟩
  | running =>
    cases hw : s.wait with
    | some w => exact .inr (.inl ⟨w, rfl, rfl, by simp [State.endStep, hr, hw]⟩)
    | none => exact .inr (.inr ⟨rfl, rfl, by simp [State.endStep, hr, hw]⟩)

/-- The timer phase writes the timers and nothing else. -/
theorem State.timerPhase_eq (s : State) :
    s.timerPhase = { s with dt := s.timerPhase.dt, st := s.timerPhase.st } := by
  unfold State.timerPhase
  split <;> rfl

/-- A step is what the phases before `Execute` end with, or `exec` of the decoded instruction with the end of the step. -/
theorem step_of_prepare (s : State) :
    (∃ t, s.prepare = .done t ∧ step s = .next t) ∨
    (∃ i t, s.prepare = .execute i t ∧ step s = endOutcome (exec i t)) := by
  cases h : s.prepare with
  | done t => exact .inl ⟨t, rfl, by simp [step, h]⟩
  | execute i t => exact .inr ⟨i, t, rfl, by simp [step, h]⟩

/-! ### Reset -/

/-- Loading bytes that fit keeps the canonical form, puts them where they belong and leaves every other byte. -/
theorem Memory.load_spec {size : Nat} {m : Memory} {a : Nat} {bytes : List Byte} (hm : Memory.wf size m = true)
    (h : a + bytes.length ≤ size) :
    Memory.wf size (Memory.load size m a bytes) = true ∧
    (∀ k, k < bytes.length → Memory.read size (Memory.load size m a bytes) (a + k) = bytes[k]?) ∧
    ∀ c, (c < a ∨ a + bytes.length ≤ c) → Memory.read size (Memory.load size m a bytes) c = Memory.read size m c := by
  obtain ⟨m', hw⟩ := Memory.writeBytes_inRange (size := size) m bytes (.inr h)
  have hl : Memory.load size m a bytes = m' := by simp [Memory.load, hw]
  rw [hl]
  exact ⟨Memory.wf_writeBytes hm hw, (Memory.writeBytes_ok hw).1 hm, (Memory.writeBytes_ok hw).2⟩

/-- Reset with an image is refused when the image does not fit, and otherwise differs from the default reset in its parameters and
its memory alone. -/
theorem State.resetWith_cases (p : Params) (font : Vector Byte 80) (rom : List Byte) :
    (p.memSize < Config.programOrigin + rom.length ∧ State.resetWith p font rom = none) ∨
    (Config.programOrigin + rom.length ≤ p.memSize ∧ ∃ m, State.resetWith p font rom =
      some { State.reset with params := p, mem := m } ∧
      m = Memory.load p.memSize (Memory.load p.memSize [] Config.fontBase font.toList) Config.programOrigin rom) := by
  by_cases h : Config.programOrigin + rom.length ≤ p.memSize
  · exact .inr ⟨h, _, by rw [State.resetWith, if_pos h], rfl⟩
  · exact .inl ⟨by omega, by rw [State.resetWith, if_neg h]⟩

end Sys2Proof.Machine
end

