-- ==== Sys2Proof/Laws/Display.lean ====
section
/-! SUPPORT. What a draw does (R274), once for the columns of a byte and once for the bytes of a sprite: a covered pixel is toggled
exactly once, and a collision is reported exactly when a covered pixel was on. -/

namespace Sys2Proof.Machine

/-- Columns of one sprite row stand on different display columns. -/
theorem pixelCol_inj {xc : Byte} {j k : Nat} (hj : j < 64) (hk : k < 64) (h : pixelCol xc j = pixelCol xc k) : j = k := by
  simp only [pixelCol, Fin.mk.injEq] at h
  omega

/-- Rows of one sprite stand on different display rows. -/
theorem pixelRow_inj {yc : Byte} {j k : Nat} (hj : j < 32) (hk : k < 32) (h : pixelRow yc j = pixelRow yc k) : j = k := by
  simp only [pixelRow, Fin.mk.injEq] at h
  omega

/-- The columns of a list where byte `b` has a set bit, as display columns. -/
def colsOn (xc : Byte) (b : Byte) (cs : List Nat) (c : Fin 64) : Bool :=
  cs.any (fun k => spriteBit b k && decide (c = pixelCol xc k))

/-- Drawing the columns of a list: each display column they stand on is toggled once, and a collision is reported exactly when one
of them was on. -/
theorem drawCols_spec (xc : Byte) (r : Fin 32) (b : Byte) (cs : List Nat) (hn : cs.Nodup) (h64 : ∀ k ∈ cs, k < 64)
    (acc : Display × Bool) :
    (∀ r' c', Display.pixel (cs.foldl (fun acc c => if spriteBit b c then drawPixel r (pixelCol xc c) acc else acc) acc).1 r' c' =
      (Display.pixel acc.1 r' c' ^^ (decide (r' = r) && colsOn xc b cs c'))) ∧
    ((cs.foldl (fun acc c => if spriteBit b c then drawPixel r (pixelCol xc c) acc else acc) acc).2 = true ↔
      acc.2 = true ∨ ∃ c, colsOn xc b cs c = true ∧ Display.pixel acc.1 r c = true) := by
  induction cs generalizing acc with
  | nil => simp [colsOn]
  | cons k ks ih =>
    rw [List.nodup_cons] at hn
    have hk : k < 64 := h64 k (by simp)
    have hks : ∀ j ∈ ks, j < 64 := fun j hj => h64 j (by simp [hj])
    have hoff : colsOn xc b ks (pixelCol xc k) = false := by
      simp only [colsOn, List.any_eq_false]
      intro j hj
      have : pixelCol xc k ≠ pixelCol xc j := fun e => hn.1 (pixelCol_inj hk (hks j hj) e ▸ hj)
      simp [this]
    have hcons : ∀ c, colsOn xc b (k :: ks) c = ((spriteBit b k && decide (c = pixelCol xc k)) || colsOn xc b ks c) := fun _ => rfl
    rw [List.foldl_cons]
    cases hb : spriteBit b k with
    | false => simpa [hcons, hb] using ih hn.2 hks acc
    | true =>
      obtain ⟨h1, h2⟩ := ih hn.2 hks (drawPixel r (pixelCol xc k) acc)
      simp only [hcons, hb, if_true]
      refine ⟨fun r' c' => ?_, ?_⟩
      · rw [h1]
        simp only [drawPixel, Display.pixel_toggle]
        by_cases hr : r' = r
        · subst hr
          by_cases hc : c' = pixelCol xc k
          · subst hc; simp [hoff]
          · simp [hc]
        · simp [hr]
      · rw [h2]
        simp only [drawPixel, Display.pixel_toggle, Bool.or_eq_true]
        constructor
        · rintro ((h | h) | ⟨c, hc, h⟩)
          · exact .inl h
          · exact .inr ⟨_, by simp, h⟩
          · have hne : c ≠ pixelCol xc k := fun e => by rw [e, hoff] at hc; cases hc
            simp only [hne, and_false, if_false] at h
            exact .inr ⟨c, by simp [hc], h⟩
        · rintro (h | ⟨c, hc, h⟩)
          · exact .inl (.inl h)
          · by_cases hne : c = pixelCol xc k
            · subst hne; exact .inl (.inr h)
            · simp only [hne, decide_false, Bool.and_false, Bool.false_eq_true, false_or] at hc
              exact .inr ⟨c, hc, by simpa [hne] using h⟩

/-- The eight columns of a sprite byte. -/
def spriteCols : List Nat := [0, 1, 2, 3, 4, 5, 6, 7]

/-- Some byte of the list, the first on sprite row `row`, has a set bit on this display pixel. -/
def spriteCovers (xc yc : Byte) : Nat → List Byte → Fin 32 → Fin 64 → Bool
  | _, [], _, _ => false
  | row, b :: bs, r, c => (decide (r = pixelRow yc row) && colsOn xc b spriteCols c) || spriteCovers xc yc (row + 1) bs r c

/-- Rows of the list do not stand on the display row of an earlier one. -/
theorem spriteCovers_above (xc yc : Byte) (row : Nat) (bs : List Byte) (j : Nat) (hj : j < row) (h : row + bs.length ≤ 32)
    (c : Fin 64) : spriteCovers xc yc row bs (pixelRow yc j) c = false := by
  induction bs generalizing row with
  | nil => rfl
  | cons b bs ih =>
    simp only [List.length_cons] at h
    have hne : pixelRow yc j ≠ pixelRow yc row := fun e => by
      have := pixelRow_inj (by omega) (by omega) e
      omega
    simp [spriteCovers, hne, ih (row + 1) (by omega) (by omega)]

/-- A pixel is covered exactly when a set bit of a byte, at its row and column, stands on it. -/
theorem spriteCovers_iff (xc yc : Byte) (row : Nat) (bs : List Byte) (r : Fin 32) (c : Fin 64) :
    spriteCovers xc yc row bs r c = true ↔
      ∃ j k b, bs[j]? = some b ∧ k < 8 ∧ b.getLsbD (7 - k) = true ∧ r = pixelRow yc (row + j) ∧ c = pixelCol xc k := by
  induction bs generalizing row with
  | nil => simp [spriteCovers]
  | cons b bs ih =>
    have hc : colsOn xc b spriteCols c = true ↔ ∃ k, k < 8 ∧ b.getLsbD (7 - k) = true ∧ c = pixelCol xc k := by
      simp only [colsOn, List.any_eq_true, spriteBit, Bool.and_eq_true, decide_eq_true_eq]
      constructor
      · rintro ⟨k, hk, h⟩; refine ⟨k, ?_, h⟩; simp [spriteCols] at hk; omega
      · rintro ⟨k, hk, h⟩; refine ⟨k, ?_, h⟩; simp [spriteCols]; omega
    simp only [spriteCovers, Bool.or_eq_true, Bool.and_eq_true, decide_eq_true_eq, hc, ih]
    constructor
    · rintro (⟨h, k, h1, h2, h3⟩ | ⟨j, k, b', h1, h2, h3, h4, h5⟩)
      · exact ⟨0, k, b, by simp, h1, h2, h, h3⟩
      · exact ⟨j + 1, k, b', by simpa using h1, h2, h3, by rw [h4]; congr 1; omega, h5⟩
    · rintro ⟨j, k, b', h1, h2, h3, h4, h5⟩
      cases j with
      | zero => simp at h1; subst h1; exact .inl ⟨h4, k, h2, h3, h5⟩
      | succ j => exact .inr ⟨j, k, b', by simpa using h1, h2, h3, by rw [h4]; congr 1; omega, h5⟩

/-- Drawing the bytes of a list from sprite row `row` on: each covered pixel is toggled once, and a collision is reported exactly
when one of them was on (R274). -/
theorem drawRows_spec (xc yc : Byte) (row : Nat) (bs : List Byte) (h : row + bs.length ≤ 32) (acc : Display × Bool) :
    (∀ r c, Display.pixel (drawRows xc yc row bs acc).1 r c =
      (Display.pixel acc.1 r c ^^ spriteCovers xc yc row bs r c)) ∧
    ((drawRows xc yc row bs acc).2 = true ↔
      acc.2 = true ∨ ∃ r c, spriteCovers xc yc row bs r c = true ∧ Display.pixel acc.1 r c = true) := by
  induction bs generalizing row acc with
  | nil => simp [drawRows, spriteCovers]
  | cons b bs ih =>
    simp only [List.length_cons] at h
    obtain ⟨h1, h2⟩ := drawCols_spec xc (pixelRow yc row) b spriteCols (by decide) (by decide) acc
    obtain ⟨h3, h4⟩ := ih (row + 1) (by omega) (drawByte xc yc row b acc)
    change ∀ r' c', Display.pixel (drawByte xc yc row b acc).1 r' c' = _ at h1
    change (drawByte xc yc row b acc).2 = true ↔ _ at h2
    have hoff := fun c => spriteCovers_above xc yc (row + 1) bs row (by omega) (by omega) c
    simp only [drawRows, spriteCovers]
    refine ⟨fun r c => ?_, ?_⟩
    · rw [h3, h1]
      by_cases hr : r = pixelRow yc row
      · subst hr; simp [hoff]
      · simp [hr]
    · rw [h4, h2]
      simp only [h1, Bool.or_eq_true]
      constructor
      · rintro ((h | ⟨c, hc, h⟩) | ⟨r, c, hc, h⟩)
        · exact .inl h
        · exact .inr ⟨_, c, .inl (by simp [hc]), h⟩
        · by_cases hr : r = pixelRow yc row
          · subst hr; rw [hoff] at hc; cases hc
          · exact .inr ⟨r, c, .inr hc, by simpa [hr] using h⟩
      · rintro (h | ⟨r, c, hc | hc, h⟩)
        · exact .inl (.inl h)
        · simp only [Bool.and_eq_true, decide_eq_true_eq] at hc
          obtain ⟨rfl, hc⟩ := hc
          exact .inl (.inr ⟨c, hc, h⟩)
        · by_cases hr : r = pixelRow yc row
          · subst hr; rw [hoff] at hc; cases hc
          · exact .inr ⟨r, c, hc, by simpa [hr] using h⟩

end Sys2Proof.Machine
end

