-- ==== Sys2Proof/Laws/PerInstr.lean ====
section
/-! SUPPORT. The family `EncodingRow`: every instruction's word has the fixed digits of its row of the opcode table (R96). -/

namespace Sys2Proof.Laws.EncodingRow

/-- The word of the instruction matches the mask and pattern of its own row of R96. -/
def Statement (i : Instr) : Prop := (opcodeRows[rowOf i - 1]?).map (rowMatches (encode i)) = some true

/-- Format `NNN`: the high nibble is fixed. -/
theorem packNNN_mask (op : BitVec 4) (nnn : BitVec 12) : packNNN op nnn &&& 0xF000#16 = op.setWidth 16 <<< 12 := by
  unfold packNNN
  ext k hk
  interval_cases k <;> simp

/-- Format `XKK`: the high nibble is fixed. -/
theorem packXKK_mask (op : BitVec 4) (x : Reg) (kk : Byte) : packXKK op x kk &&& 0xF000#16 = op.setWidth 16 <<< 12 := by
  unfold packXKK
  ext k hk
  interval_cases k <;> simp

/-- Format `XFN`: the high nibble and the low byte are fixed. -/
theorem packXFN_mask (op : BitVec 4) (x : Reg) (fn : Byte) :
    packXKK op x fn &&& 0xF0FF#16 = op.setWidth 16 <<< 12 ||| fn.setWidth 16 := by
  unfold packXKK
  ext k hk
  interval_cases k <;> simp

/-- Format `XYN` with a sub-operation: the high and the low nibble are fixed. -/
theorem packXYN_mask (op : BitVec 4) (x y : Reg) (n : BitVec 4) :
    packXYN op x y n &&& 0xF00F#16 = op.setWidth 16 <<< 12 ||| n.setWidth 16 := by
  unfold packXYN
  ext k hk
  interval_cases k <;> simp

/-- Format `XYN` with `n` an operand: the high nibble is fixed. -/
theorem packXYN_highMask (op : BitVec 4) (x y : Reg) (n : BitVec 4) :
    packXYN op x y n &&& 0xF000#16 = op.setWidth 16 <<< 12 := by
  unfold packXYN
  ext k hk
  interval_cases k <;> simp

theorem cls : Statement .cls := by
  unfold Statement
  decide

theorem ret : Statement .ret := by
  unfold Statement
  decide

theorem jmp0 (nnn : BitVec 12) : Statement (.jmp0 nnn) := by
  simp [Statement, rowOf, opcodeRows, rowMatches, encode, packNNN_mask]

theorem jmp (nnn : BitVec 12) : Statement (.jmp nnn) := by
  simp [Statement, rowOf, opcodeRows, rowMatches, encode, packNNN_mask]

theorem call (nnn : BitVec 12) : Statement (.call nnn) := by
  simp [Statement, rowOf, opcodeRows, rowMatches, encode, packNNN_mask]

theorem seImm (x : Reg) (kk : Byte) : Statement (.seImm x kk) := by
  simp [Statement, rowOf, opcodeRows, rowMatches, encode, packXKK_mask]

theorem sneImm (x : Reg) (kk : Byte) : Statement (.sneImm x kk) := by
  simp [Statement, rowOf, opcodeRows, rowMatches, encode, packXKK_mask]

theorem seReg (x y : Reg) : Statement (.seReg x y) := by
  simp [Statement, rowOf, opcodeRows, rowMatches, encode, packXYN_mask]

theorem ldImm (x : Reg) (kk : Byte) : Statement (.ldImm x kk) := by
  simp [Statement, rowOf, opcodeRows, rowMatches, encode, packXKK_mask]

theorem addImm (x : Reg) (kk : Byte) : Statement (.addImm x kk) := by
  simp [Statement, rowOf, opcodeRows, rowMatches, encode, packXKK_mask]

theorem ldReg (x y : Reg) : Statement (.ldReg x y) := by
  simp [Statement, rowOf, opcodeRows, rowMatches, encode, packXYN_mask]

theorem orReg (x y : Reg) : Statement (.orReg x y) := by
  simp [Statement, rowOf, opcodeRows, rowMatches, encode, packXYN_mask]

theorem andReg (x y : Reg) : Statement (.andReg x y) := by
  simp [Statement, rowOf, opcodeRows, rowMatches, encode, packXYN_mask]

theorem xorReg (x y : Reg) : Statement (.xorReg x y) := by
  simp [Statement, rowOf, opcodeRows, rowMatches, encode, packXYN_mask]

theorem addReg (x y : Reg) : Statement (.addReg x y) := by
  simp [Statement, rowOf, opcodeRows, rowMatches, encode, packXYN_mask]

theorem subReg (x y : Reg) : Statement (.subReg x y) := by
  simp [Statement, rowOf, opcodeRows, rowMatches, encode, packXYN_mask]

theorem shr (x y : Reg) : Statement (.shr x y) := by
  simp [Statement, rowOf, opcodeRows, rowMatches, encode, packXYN_mask]

theorem subnReg (x y : Reg) : Statement (.subnReg x y) := by
  simp [Statement, rowOf, opcodeRows, rowMatches, encode, packXYN_mask]

theorem shl (x y : Reg) : Statement (.shl x y) := by
  simp [Statement, rowOf, opcodeRows, rowMatches, encode, packXYN_mask]

theorem sneReg (x y : Reg) : Statement (.sneReg x y) := by
  simp [Statement, rowOf, opcodeRows, rowMatches, encode, packXYN_mask]

theorem ldI (nnn : BitVec 12) : Statement (.ldI nnn) := by
  simp [Statement, rowOf, opcodeRows, rowMatches, encode, packNNN_mask]

theorem jmpV0 (nnn : BitVec 12) : Statement (.jmpV0 nnn) := by
  simp [Statement, rowOf, opcodeRows, rowMatches, encode, packNNN_mask]

theorem rnd (x : Reg) (kk : Byte) : Statement (.rnd x kk) := by
  simp [Statement, rowOf, opcodeRows, rowMatches, encode, packXKK_mask]

theorem drw (x y : Reg) (n : BitVec 4) : Statement (.drw x y n) := by
  simp [Statement, rowOf, opcodeRows, rowMatches, encode, packXYN_highMask]

theorem skp (x : Reg) : Statement (.skp x) := by
  simp [Statement, rowOf, opcodeRows, rowMatches, encode, packXFN_mask]

theorem sknp (x : Reg) : Statement (.sknp x) := by
  simp [Statement, rowOf, opcodeRows, rowMatches, encode, packXFN_mask]

theorem ldVxDt (x : Reg) : Statement (.ldVxDt x) := by
  simp [Statement, rowOf, opcodeRows, rowMatches, encode, packXFN_mask]

theorem ldVxKey (x : Reg) : Statement (.ldVxKey x) := by
  simp [Statement, rowOf, opcodeRows, rowMatches, encode, packXFN_mask]

theorem ldDtVx (x : Reg) : Statement (.ldDtVx x) := by
  simp [Statement, rowOf, opcodeRows, rowMatches, encode, packXFN_mask]

theorem ldStVx (x : Reg) : Statement (.ldStVx x) := by
  simp [Statement, rowOf, opcodeRows, rowMatches, encode, packXFN_mask]

theorem addI (x : Reg) : Statement (.addI x) := by
  simp [Statement, rowOf, opcodeRows, rowMatches, encode, packXFN_mask]

theorem ldFont (x : Reg) : Statement (.ldFont x) := by
  simp [Statement, rowOf, opcodeRows, rowMatches, encode, packXFN_mask]

theorem ldBcd (x : Reg) : Statement (.ldBcd x) := by
  simp [Statement, rowOf, opcodeRows, rowMatches, encode, packXFN_mask]

theorem storeRegs (x : Reg) : Statement (.storeRegs x) := by
  simp [Statement, rowOf, opcodeRows, rowMatches, encode, packXFN_mask]

theorem loadRegs (x : Reg) : Statement (.loadRegs x) := by
  simp [Statement, rowOf, opcodeRows, rowMatches, encode, packXFN_mask]

theorem saveFlags (x : Reg) : Statement (.saveFlags x) := by
  simp [Statement, rowOf, opcodeRows, rowMatches, encode, packXFN_mask]

theorem restoreFlags (x : Reg) : Statement (.restoreFlags x) := by
  simp [Statement, rowOf, opcodeRows, rowMatches, encode, packXFN_mask]

end Sys2Proof.Laws.EncodingRow
end

