-- ==== Sys2Proof/Tests/Slice0.lean ====
section
/-! SUPPORT. The model's own tests. Expected results come from the patterns of spec/30_encoding.md R96 and the vectors of
spec/95_test_vectors.md (named in each docstring); and one witness for every obligation that has hypotheses. -/

namespace Sys2Proof.Tests.Slice0

open Sys2Proof Sys2Proof.Machine

/-! ### Well-formedness: the two checks refuse -/

/-- R151: 0x00E0 is `CLS`, so no `JMP0` has this target. -/
theorem test_wf_refuses_jmp0_cls : (Instr.jmp0 0x0E0).wellFormed = false := by decide

/-- R151: 0x00EE is `RET`. -/
theorem test_wf_refuses_jmp0_ret : (Instr.jmp0 0x0EE).wellFormed = false := by decide

theorem test_wf_accepts_jmp0 : (Instr.jmp0 0x1E0).wellFormed = true := by decide

/-! ### Decoding: every constructor, by a word written out from R96's patterns, one per family bit by bit -/

/-- Rows 1 to 8, 20, 22. -/
theorem test_decode_control :
    decode [0x00, 0xE0] = .ok (.cls, []) ∧ decode [0b00000000, 0b11101110] = .ok (.ret, []) ∧
    decode [0x0A, 0xBC] = .ok (.jmp0 0xABC, []) ∧ decode [0x1A, 0xBC] = .ok (.jmp 0xABC, []) ∧
    decode [0x2A, 0xBC] = .ok (.call 0xABC, []) ∧ decode [0b00110001, 0b10100101] = .ok (.seImm 1 0xA5, []) ∧
    decode [0x42, 0x5A] = .ok (.sneImm 2 0x5A, []) ∧ decode [0x53, 0xC0] = .ok (.seReg 3 12, []) ∧
    decode [0x93, 0xC0] = .ok (.sneReg 3 12, []) ∧ decode [0xBA, 0xBC] = .ok (.jmpV0 0xABC, []) := by decide

/-- Rows 9 to 14. -/
theorem test_decode_load_logic :
    decode [0b01101010, 0b00001010] = .ok (.ldImm 10 0x0A, []) ∧ decode [0x71, 0xFF] = .ok (.addImm 1 0xFF, []) ∧
    decode [0x82, 0x30] = .ok (.ldReg 2 3, []) ∧ decode [0x82, 0x31] = .ok (.orReg 2 3, []) ∧
    decode [0x82, 0x32] = .ok (.andReg 2 3, []) ∧ decode [0x82, 0x33] = .ok (.xorReg 2 3, []) := by decide

/-- Rows 15 to 19; the `y` field of `SHR` and `SHL` is kept (R95). -/
theorem test_decode_arithmetic :
    decode [0x82, 0x34] = .ok (.addReg 2 3, []) ∧ decode [0x82, 0x35] = .ok (.subReg 2 3, []) ∧
    decode [0x82, 0xF6] = .ok (.shr 2 15, []) ∧ decode [0b10000010, 0b00110111] = .ok (.subnReg 2 3, []) ∧
    decode [0x82, 0xFE] = .ok (.shl 2 15, []) := by decide

/-- Rows 21, 31 to 37. -/
theorem test_decode_index_memory :
    decode [0xA3, 0x21] = .ok (.ldI 0x321, []) ∧ decode [0b11110010, 0b00011110] = .ok (.addI 2, []) ∧
    decode [0xFA, 0x29] = .ok (.ldFont 10, []) ∧ decode [0xF0, 0x33] = .ok (.ldBcd 0, []) ∧
    decode [0xF1, 0x55] = .ok (.storeRegs 1, []) ∧ decode [0xFF, 0x65] = .ok (.loadRegs 15, []) ∧
    decode [0xF7, 0x75] = .ok (.saveFlags 7, []) ∧ decode [0xF8, 0x85] = .ok (.restoreFlags 8, []) := by decide

/-- Rows 23, 27, 29, 30. -/
theorem test_decode_timers_random :
    decode [0b11000011, 0b00001111] = .ok (.rnd 3 0x0F, []) ∧ decode [0xF1, 0x07] = .ok (.ldVxDt 1, []) ∧
    decode [0xF0, 0x15] = .ok (.ldDtVx 0, []) ∧ decode [0xF4, 0x18] = .ok (.ldStVx 4, []) := by decide

/-- Rows 24 to 26, 28. -/
theorem test_decode_display_keypad :
    decode [0b11010001, 0b00100101] = .ok (.drw 1 2 5, []) ∧ decode [0xE5, 0x9E] = .ok (.skp 5, []) ∧
    decode [0xE5, 0xA1] = .ok (.sknp 5, []) ∧ decode [0xF3, 0x0A] = .ok (.ldVxKey 3, []) := by decide

/-- R97, one word of each illegal group; a lone byte; the bytes after the instruction stay. -/
theorem test_decode_illegal :
    decode [0xFF, 0xFF] = .error (.illegalOpcode 0xFFFF) ∧ decode [0x53, 0xC1] = .error (.illegalOpcode 0x53C1) ∧
    decode [0x82, 0x38] = .error (.illegalOpcode 0x8238) ∧ decode [0x93, 0xCF] = .error (.illegalOpcode 0x93CF) ∧
    decode [0xE5, 0x9F] = .error (.illegalOpcode 0xE59F) ∧ decode [0x00] = .error .truncated ∧
    decode [0x12, 0x00, 0x7F] = .ok (.jmp 0x200, [0x7F]) := by decide

theorem test_encode : encodeBytes (.drw 1 2 5) = [0xD1, 0x25] ∧ encodeBytes (.shr 2 15) = [0x82, 0xF6] := by decide

theorem test_table_word :
    decodeTableWord 16 0xF265 = some (.loadRegs 2) ∧ decodeTableWord 16 0x00EE = some .ret ∧
    decodeTableWord 16 0xFFFF = none := by decide

/-! ### One step -/

/-- The sixteen keys with those of a list down. -/
def keysDown (down : List Nat) : Keys := Vector.ofFn (fun k => down.contains k.val)

/-- A step's answers with nothing pressed and `Continue`. -/
def quiet : Inputs := { poll := .goOn, randomByte := 0xB7, keys := keysDown [], keyPolls := [], ticks := 0 }

/-- The state after reset with one step's answers prescribed. -/
def start (inp : Inputs) : State := { State.reset with script := [inp] }

/-- The same with two registers set. -/
def regs2 (x : Reg) (a : Byte) (y : Reg) (b : Byte) : State := ((start quiet).setReg x a).setReg y b

/-- The next state of an outcome. -/
def nextOf : Host.Outcome State Fault Refusal → Option State
  | .next t => some t
  | .fault _ => none
  | .refused _ => none

/-- An outcome whose next state passes a check. -/
theorem exists_next {o : Host.Outcome State Fault Refusal} {check : State → Bool} (h : (nextOf o).any check = true) :
    ∃ t, o = .next t ∧ check t = true := by
  cases o with
  | next t => exact ⟨t, rfl, by simpa [nextOf] using h⟩
  | fault r => cases r
  | refused r => simp [nextOf] at h

/-- The state after one step that fetches `w`. -/
def after (s : State) (w : Word) : Option State := nextOf (step (s.placeWord w))

/-- Two registers after the step. -/
def regsAfter (s : State) (w : Word) (x y : Reg) : Option (Byte × Byte) := (after s w).map (fun t => (t.reg x, t.reg y))

/-- `pc` after the step. -/
def pcAfter (s : State) (w : Word) : Option Word := (after s w).map (fun t => t.pc)

/-- A byte of memory after the step. -/
def byteAfter (s : State) (w : Word) (a : Nat) : Option Byte := (after s w).bind (fun t => t.readByte a)

/-- The halt record after the step. -/
def haltAfter (s : State) (w : Word) : Option HaltRecord := (after s w).bind (fun t => t.halt)

/-- CF1. -/
theorem test_ret : pcAfter { start quiet with sp := 1, stack := (start quiet).stack.set 0 0x206 } 0x00EE = some 0x206 := by
  decide

/-- CF2. -/
theorem test_ret_empty : haltAfter (start quiet) 0x00EE =
    some { cause := 5, instrAddr := 0x200, opcode := some 0x00EE, badAddr := none } := by decide

/-- CF6: 0x01E0 is a jump. -/
theorem test_jmp0 : pcAfter (start quiet) 0x01E0 = some 0x1E0 := by decide

/-- CF10, R152. -/
theorem test_jmp : pcAfter { start quiet with pc := 0x20A } 0x1204 = some 0x204 := by decide

/-- CF16: the post-fetch PC is pushed. -/
theorem test_call : (after { start quiet with pc := 0x204 } 0x2210).map (fun t => (t.pc, t.sp, t.stack[0])) =
    some (0x210, 1, 0x206) := by decide

/-- CF15. -/
theorem test_call_full : haltAfter { start quiet with sp := 16 } 0x2210 =
    some { cause := 4, instrAddr := 0x200, opcode := some 0x2210, badAddr := none } := by decide

/-- CF17, CF18. -/
theorem test_se_imm : pcAfter (regs2 1 0 2 0) 0x3100 = some 0x204 ∧ pcAfter (regs2 1 1 2 0) 0x3100 = some 0x202 := by decide

/-- CF19, CF20. -/
theorem test_sne_imm : pcAfter (regs2 3 0x10 2 0) 0x4311 = some 0x204 ∧ pcAfter (regs2 3 0x10 2 0) 0x4310 = some 0x202 := by
  decide

/-- CF21, CF22. -/
theorem test_se_reg : pcAfter (regs2 2 0x55 7 0x55) 0x5270 = some 0x204 ∧ pcAfter (regs2 2 0x55 7 0x56) 0x5270 = some 0x202 := by
  decide

/-- CF24, CF25. -/
theorem test_sne_reg : pcAfter (regs2 2 0x55 7 0x56) 0x9270 = some 0x204 ∧
    pcAfter (regs2 2 0x55 7 0x55) 0x9270 = some 0x202 := by decide

/-- CF28: no mask. -/
theorem test_jmp_v0 : pcAfter (regs2 0 0xFF 3 4) 0xBFFF = some 0x10FE := by decide

/-- A1. -/
theorem test_ld_imm : regsAfter (start quiet) 0x6A0A 10 15 = some (0x0A, 0) := by decide

/-- A5: wraps, VF untouched. -/
theorem test_add_imm : regsAfter (regs2 0 0xFF 15 7) 0x7001 0 15 = some (0, 7) := by decide

/-- A7. -/
theorem test_ld_reg : regsAfter (regs2 2 1 3 0x7E) 0x8230 2 3 = some (0x7E, 0x7E) := by decide

/-- A8, without VF. -/
theorem test_or : regsAfter (regs2 0 0xF0 1 0x0F) 0x8011 0 1 = some (0xFF, 0x0F) := by decide

/-- A9, without VF. -/
theorem test_and : regsAfter (regs2 0 0xF3 1 0x3C) 0x8012 0 1 = some (0x30, 0x3C) := by decide

/-- A10, without VF. -/
theorem test_xor : regsAfter (regs2 0 0xFF 1 0x0F) 0x8013 0 1 = some (0xF0, 0x0F) := by decide

/-- A12. -/
theorem test_add_reg : regsAfter (regs2 0 0xC8 1 0x64) 0x8014 0 15 = some (0x2C, 1) := by decide

/-- A19, A17: VF as a source, VF as the destination. -/
theorem test_add_reg_vf : regsAfter (regs2 0 0xFF 15 1) 0x80F4 0 15 = some (0, 1) ∧
    regsAfter (regs2 1 0x20 15 0xF0) 0x8F14 1 15 = some (0x20, 1) := by decide

/-- A22, A24. -/
theorem test_sub_reg : regsAfter (regs2 0 0x05 1 0x0A) 0x8015 0 15 = some (0xFB, 0) ∧
    regsAfter (regs2 0 0x07 1 0x07) 0x8015 0 15 = some (0, 1) := by decide

/-- A30, A27. -/
theorem test_sub_reg_vf : regsAfter (regs2 0 0 15 1) 0x80F5 0 15 = some (0xFF, 0) ∧
    regsAfter (regs2 1 5 15 3) 0x8F15 1 15 = some (5, 0) := by decide

/-- A33: `y` is ignored. -/
theorem test_shr : regsAfter (regs2 2 5 15 0xAA) 0x82F6 2 15 = some (2, 1) := by decide

/-- A38. -/
theorem test_shr_vf : regsAfter (regs2 2 5 15 0xFF) 0x8F06 2 15 = some (5, 0) := by decide

/-- A41. -/
theorem test_subn_reg : regsAfter (regs2 0 0x0A 1 0x05) 0x8017 0 15 = some (0xFB, 0) := by decide

/-- A43, A44: the same register. -/
theorem test_subn_same : regsAfter (regs2 0 9 15 1) 0x8007 0 15 = some (0, 0) ∧
    regsAfter (regs2 0 0 15 0) 0x8007 0 15 = some (0, 1) := by decide

/-- A51. -/
theorem test_shl : regsAfter (regs2 2 0x81 15 0) 0x820E 2 15 = some (2, 1) := by decide

/-- A56. -/
theorem test_shl_vf : regsAfter (regs2 2 1 15 0x80) 0x8F0E 2 15 = some (1, 2) := by decide

/-- X1. -/
theorem test_ld_i : (after { start quiet with i := 0xFFFF } 0xA300).map (fun t => t.i) = some 0x300 := by decide

/-- X4. -/
theorem test_add_i : (after ({ start quiet with i := 0xFFFF }.setReg 2 1) 0xF21E).map (fun t => (t.i, t.reg 15)) =
    some (0, 1) := by decide

/-- X7, X8: the bound is a parameter. -/
theorem test_add_i_bound :
    regsAfter ({ start quiet with i := 0xFFF }.setReg 2 1) 0xF21E 2 15 = some (1, 0) ∧
    regsAfter ({ start quiet with i := 0xFFF, params := { Params.default with iOverflowBound := 0xFFF } }.setReg 2 1)
      0xF21E 2 15 = some (1, 1) := by decide

/-- X13, X17. -/
theorem test_ld_font : (after (regs2 10 0x0A 0 0) 0xFA29).map (fun t => t.i) = some 0x82 ∧
    (after (regs2 10 0xFF 0 0) 0xFA29).map (fun t => t.i) = some 0x54B := by decide

/-- X18. -/
theorem test_bcd : (after ({ start quiet with i := 0x300 }.setReg 0 0xEA) 0xF033).map
    (fun t => Memory.readBytes t.params.memSize t.mem 0x300 3) = some (.ok [2, 3, 4]) := by decide

/-- X24: the lowest address outside memory is reported. -/
theorem test_bcd_fault : haltAfter ({ start quiet with i := 0xFFD }.setReg 0 0xC7) 0xF033 =
    some { cause := 3, instrAddr := 0x200, opcode := some 0xF033, badAddr := some 0xFFF } := by decide

/-- X29. -/
theorem test_store_regs : (after { regs2 0 0x12 1 0x0A with i := 0x208 } 0xF155).map
    (fun t => (Memory.readBytes t.params.memSize t.mem 0x208 3, t.i)) = some (.ok [0x12, 0x0A, 0], 0x208) := by decide

/-- X34: nothing wraps. -/
theorem test_store_regs_fault : haltAfter { start quiet with i := 0xFFFF } 0xF055 =
    some { cause := 3, instrAddr := 0x200, opcode := some 0xF055, badAddr := some 0xFFFF } := by decide

/-- X35: three bytes in memory, V3 kept. -/
theorem test_load_regs :
    (after { (regs2 3 0x99 0 0 |>.pokeByte 0x300 2 |>.pokeByte 0x301 3 |>.pokeByte 0x302 4) with i := 0x300 } 0xF265).map
      (fun t => (t.reg 0, t.reg 1, t.reg 2, t.reg 3)) = some (2, 3, 4, 0x99) := by decide

/-- X37. -/
theorem test_load_regs_fault : haltAfter { start quiet with i := 0xFFE } 0xF165 =
    some { cause := 3, instrAddr := 0x200, opcode := some 0xF165, badAddr := some 0xFFF } := by decide

/-- X39. -/
theorem test_save_flags : (after (regs2 0 0x11 1 0x22) 0xF175).map (fun t => (t.uf[0], t.uf[1], t.uf[2])) =
    some (0x11, 0x22, 0) := by decide

/-- X44: `V[8]` is never written. -/
theorem test_restore_flags :
    (after { regs2 7 1 8 8 with uf := (Vector.replicate 8 0).set 7 0xC7 } 0xFF85).map (fun t => (t.reg 7, t.reg 8)) =
      some (0xC7, 8) := by decide

/-- T1: the copy is taken before the timer phase. -/
theorem test_ld_vx_dt : (after { start quiet with dt := 2 } 0xF107).map (fun t => (t.reg 1, t.dt)) = some (2, 1) := by decide

/-- T3. -/
theorem test_ld_dt_vx : (after (regs2 0 3 1 0) 0xF015).map (fun t => t.dt) = some 2 := by decide

/-- T7. -/
theorem test_ld_st_vx : (after (regs2 4 0x1E 1 0) 0xF418).map (fun t => (t.st, t.dt)) = some (0x1E, 0) := by decide

/-- T17: both timers count ticks in `Tick60` mode. -/
theorem test_tick60 : (after { start { quiet with ticks := 4 } with
      dt := 5, st := 3, params := { Params.default with timerMode := .tick60 } } 0x8000).map (fun t => (t.dt, t.st)) =
    some (1, 0) := by decide

/-- T11. -/
theorem test_rnd : regsAfter (start quiet) 0xC30F 3 15 = some (7, 0) := by decide

/-- G1: one pixel that was on, VF kept. -/
theorem test_cls : (after ({ start quiet with disp := Display.toggle Display.blank 31 63 }.setReg 15 7) 0x00E0).map
    (fun t => (Display.pixel t.disp 31 63, t.reg 15)) = some (false, 7) := by decide

/-- G4: columns 60 to 63, then 0 to 3. -/
theorem test_drw_wraps :
    (after ({ (start quiet).pokeByte 0x300 0xFF with i := 0x300 }.setReg 0 0x3C) 0xD011).map (fun t =>
      (Display.pixel t.disp 0 59, Display.pixel t.disp 0 60, Display.pixel t.disp 0 3, Display.pixel t.disp 0 4, t.reg 15)) =
      some (false, true, true, false, 0) := by decide

/-- G9: one overlapping pixel goes off and sets VF. -/
theorem test_drw_collision :
    (after { (start quiet).pokeByte 0x300 0xFF with i := 0x300, disp := Display.toggle Display.blank 0 3 } 0xD011).map (fun t =>
      (Display.pixel t.disp 0 2, Display.pixel t.disp 0 3, t.reg 15)) = some (true, false, 1) := by decide

/-- K1, K2. -/
theorem test_skp : pcAfter ((start { quiet with keys := keysDown [10] }).setReg 5 10) 0xE59E = some 0x204 ∧
    pcAfter ((start quiet).setReg 5 10) 0xE59E = some 0x202 := by decide

/-- K5, K4. -/
theorem test_sknp : pcAfter ((start { quiet with keys := keysDown [10] }).setReg 5 10) 0xE5A1 = some 0x202 ∧
    pcAfter ((start quiet).setReg 5 10) 0xE5A1 = some 0x204 := by decide

/-- R234(c), R278: two keys change at the second poll, the lower one is answered; the timer phase runs. -/
theorem test_ld_vx_key :
    (after { start { quiet with keyPolls := [keysDown [], keysDown [9, 7]] } with dt := 5 } 0xF30A).map
      (fun t => (t.reg 3, t.pc, t.dt, t.wait.isSome)) = some (7, 0x202, 4, false) := by decide

/-- R234(a), (d): no change, the engine stays blocked and no timer phase runs. -/
theorem test_ld_vx_key_blocks :
    (after { start quiet with dt := 5 } 0xF30A).map (fun t => (t.pc, t.dt, t.wait)) =
      some (0x202, 5, some { x := 3, snapshot := keysDown [] }) := by decide

/-- D1. -/
theorem test_illegal : haltAfter (start quiet) 0xFFFF =
    some { cause := 2, instrAddr := 0x200, opcode := some 0xFFFF, badAddr := none } := by decide

/-- The memory after a step keeps its canonical form; so does the reset memory. -/
theorem test_memory_wf : (after ({ start quiet with i := 0x300 }.setReg 0 0xEA) 0xF033).map (fun t => Memory.wf t.params.memSize t.mem) =
    some true ∧ Memory.wf State.reset.params.memSize State.reset.mem = true := by decide

/-- Writing what an unlisted address reads as removes the entry, in the font and elsewhere. -/
theorem test_memory_canonical :
    Memory.insert [(0x50, 1), (0x300, 2)] 0x50 0xF0 = [(0x300, 2)] ∧ Memory.insert [(0x50, 1), (0x300, 2)] 0x300 0 = [(0x50, 1)] := by
  decide

/-- R60, D4: with `MEM_SIZE` = 0x1000 the address 0xFFF exists; by default it does not. -/
theorem test_memSize :
    (after { start quiet with i := 0xFFF, params := { Params.default with memSize := 0x1000 } } 0xF065).map
      (fun t => (t.readByte 0xFFF, t.readByte 0x1000)) = some (some 0, none) ∧
    haltAfter { start quiet with i := 0xFFF } 0xF065 =
      some { cause := 3, instrAddr := 0x200, opcode := some 0xF065, badAddr := some 0xFFF } := by decide

/-- R303: the glyphs of digits 0, 1, 7 and F, with the bytes before and after the table. -/
theorem test_reset_font :
    Memory.readBytes 0xFFF State.reset.mem 0x4F 11 =
      .ok [0, 0xF0, 0x90, 0x90, 0x90, 0xF0, 0x20, 0x60, 0x20, 0x20, 0x70] ∧
    Memory.readBytes 0xFFF State.reset.mem 0x73 5 = .ok [0xF0, 0x10, 0x20, 0x40, 0x40] ∧
    Memory.readBytes 0xFFF State.reset.mem 0x9B 6 = .ok [0xF0, 0x80, 0xF0, 0x80, 0x80, 0] := by decide

/-- R300: the default arguments and the empty image give the state after reset. -/
theorem test_resetWith_default : State.resetWith Params.default defaultFont [] = some State.reset := by decide

/-- R268, R234(d): in `Tick60` mode the wait ended by the second poll of a later step is followed by one timer phase. -/
theorem test_blocked_tick60 :
    (nextOf (step { start { quiet with keyPolls := [keysDown [], keysDown [7]], ticks := 4 } with
      wait := some { x := 3, snapshot := keysDown [] }, dt := 5, st := 3,
      params := { Params.default with timerMode := .tick60 } })).map (fun t => (t.reg 3, t.dt, t.st, t.wait.isSome)) =
      some (7, 1, 0, false) := by decide

/-! ### Witnesses: a state and operands that meet the hypotheses of each obligation, at the boundary of each clause -/

/-- `AddRegSumThenCarry`, `SubRegDifferenceThenNotBorrow`, `ShrShiftsVxWhateverY`, `SubnRegReverseDifference`,
`ShlShiftsVxWhateverY`: operands of each clause (VF or not, the same register or not). -/
theorem witness_aliasing : (14 : Reg) ≠ vf ∧ (15 : Reg) = vf ∧ (14 : Reg) ≠ (15 : Reg) := by decide

/-- `CallPushesPostFetchPc`, `CallThenRetReturns`: the empty stack and the last free slot. -/
theorem witness_CallPushesPostFetchPc :
    (start quiet).sp.val < 16 ∧ ({ start quiet with sp := 15 } : State).sp.val < 16 := by decide

theorem witness_CallOnFullStackHalts : ({ start quiet with sp := 16 } : State).sp.val = 16 := by decide

/-- One live entry, and a full stack. -/
theorem witness_RetPopsIntoPc : ({ start quiet with sp := 1 } : State).sp.val = (0 : Fin 16).val + 1 ∧
    ({ start quiet with sp := 16 } : State).sp.val = (15 : Fin 16).val + 1 := by decide

theorem witness_RetOnEmptyStackHalts : (start quiet).sp.val = 0 := by decide

/-- `I` = 0xFFC is the last that fits. -/
theorem witness_LdBcdStoresDigits : Memory.wf ({ start quiet with i := 0xFFC } : State).params.memSize ({ start quiet with i := 0xFFC } : State).mem = true ∧
    ({ start quiet with i := 0xFFC } : State).effAddr 2 < (start quiet).params.memSize := by decide

/-- `StoreRegsStoresRange`, `LoadRegsLoadsRange`: one byte at 0xFFE, sixteen from 0xFEF. -/
theorem witness_StoreRegsStoresRange : Memory.wf ({ start quiet with i := 0xFEF } : State).params.memSize ({ start quiet with i := 0xFEF } : State).mem = true ∧
    ({ start quiet with i := 0xFEF } : State).effAddr (15 : Reg).val < (start quiet).params.memSize ∧
    ({ start quiet with i := 0xFFE } : State).effAddr (0 : Reg).val < (start quiet).params.memSize := by decide

/-- Each clause at the first value it covers. -/
theorem witness_OutOfRangeAccessHalts :
    (start quiet).params.memSize = 0xFFF ∧ 0xFFF ≤ ({ start quiet with i := 0xFFD } : State).i.toNat + 2 ∧
    0xFFF ≤ ({ start quiet with i := 0xFF0 } : State).i.toNat + (15 : Reg).val ∧
    0xFFF ≤ ({ start quiet with i := 0xFFF } : State).i.toNat + (0 : Reg).val ∧
    0 < (1#4).toNat ∧ 0xFFF ≤ ({ start quiet with i := 0xFFF } : State).i.toNat + (1#4).toNat - 1 ∧
    0xFFF ≤ ({ start quiet with i := 0xFF1 } : State).i.toNat + (15#4).toNat - 1 := by decide

/-- `SaveFlagsCopiesRange`, `RestoreFlagsCopiesRange`: the last entry copied and the first kept, below and above the clamp. -/
theorem witness_SaveFlagsCopiesRange : (6 : Fin 8).val ≤ (6 : Reg).val ∧ (6 : Reg).val < (7 : Fin 8).val ∧
    (7 : Fin 8).val ≤ (15 : Reg).val ∧ min (15 : Reg).val 7 < (8 : Reg).val := by decide

/-- Both modes. -/
theorem witness_TimerPhaseCounts : State.reset.params.timerMode = .perCycle ∧
    ({ State.reset with params := { Params.default with timerMode := .tick60 } } : State).params.timerMode = .tick60 := by
  decide

/-- Nothing to read, and fifteen bytes up to 0xFFE. -/
theorem witness_DrwXorsSpriteAndFlagsCollision :
    ((0#4).toNat = 0 ∨ ({ start quiet with i := 0xFFFF } : State).effAddr ((0#4).toNat - 1) < (start quiet).params.memSize) ∧
    ((15#4).toNat = 0 ∨ ({ start quiet with i := 0xFF0 } : State).effAddr ((15#4).toNat - 1) < (start quiet).params.memSize) := by decide

/-- A sprite of fifteen bytes; one that a blank display takes without a collision; and one on pixels that are all on, whose first
draw collides and whose second does not (R274). -/
theorem witness_DrawingTwiceRestoresDisplay : (List.replicate 15 (0xFF : Byte)).length ≤ 15 ∧
    (displayDraw Display.blank 60 31 [0xFF]).2 = false ∧
    (displayDraw (displayDraw Display.blank 60 31 [0xFF]).1 60 31 [0xFF]).2 = true ∧
    (displayDraw (displayDraw (displayDraw Display.blank 60 31 [0xFF]).1 60 31 [0xFF]).1 60 31 [0xFF]).2 = false := by decide

/-- Keys 0 and 15. -/
theorem witness_KeySkips : ((start quiet).reg 5).toNat = (0 : Key).val ∧
    (((start quiet).setReg 5 15).reg 5).toNat = (15 : Key).val := by decide

/-- 16 and 255. -/
theorem witness_KeyIndexAboveFifteenIsRefused : 16 ≤ (((start quiet).setReg 5 16).reg 5).toNat ∧
    16 ≤ (((start quiet).setReg 5 255).reg 5).toNat := by decide

/-- Two keys change at the second poll. -/
theorem witness_KeyWaitYieldsLowestChangedKey :
    (start { quiet with keyPolls := [keysDown [], keysDown [9, 7]] }).inputs.keyPolls = [keysDown []] ++ keysDown [9, 7] :: [] ∧
    (∀ p ∈ [keysDown []], p = (start quiet).inputs.keys) ∧
    (keysDown [9, 7])[7] ≠ (start quiet).inputs.keys[7] ∧
    (∀ j : Key, j.val < 7 → (keysDown [9, 7])[j.val] = (start quiet).inputs.keys[j.val]) :=
  ⟨rfl, fun _ hp => List.mem_singleton.1 hp, by decide, by decide⟩

theorem witness_KeyWaitBlocksWithoutChange :
    ∀ p ∈ (start { quiet with keyPolls := [keysDown []] }).inputs.keyPolls, p = (start quiet).inputs.keys :=
  fun _ hp => List.mem_singleton.1 hp

/-- A blocked engine: its first clause without a poll, its second with key 7 down at the second poll, in both modes. -/
theorem witness_BlockedStepGoesOnWaiting :
    ({ start quiet with wait := some { x := 3, snapshot := keysDown [] } } : State).run = .running ∧
    ({ start quiet with wait := some { x := 3, snapshot := keysDown [] } } : State).wait =
      some { x := 3, snapshot := keysDown [] } ∧
    (∀ p ∈ (start quiet).inputs.keyPolls, p = keysDown []) ∧
    (start { quiet with keyPolls := [keysDown [], keysDown [7]] }).inputs.keyPolls = [keysDown []] ++ keysDown [7] :: [] ∧
    (∀ p ∈ [keysDown []], p = keysDown []) ∧
    (keysDown [7])[7] ≠ (keysDown [])[7] ∧
    (∀ j : Key, j.val < 7 → (keysDown [7])[j.val] = (keysDown [])[j.val]) ∧
    (start quiet).params.timerMode = .perCycle ∧
    ({ start quiet with params := { Params.default with timerMode := .tick60 } } : State).params.timerMode = .tick60 :=
  ⟨rfl, rfl, fun _ hp => absurd hp List.not_mem_nil, rfl, fun _ hp => List.mem_singleton.1 hp, by decide, by decide, rfl, rfl⟩

/-- The fetch hypotheses at 0x200, and the four outcomes of `exec` the clauses name. -/
theorem witness_StepRunsTheDecodedInstruction :
    ((start quiet).placeWord 0x6A0A).ReadyToFetch ∧ ((start quiet).placeWord 0x6A0A).HasCode 0x6A 0x0A ∧
    decode [0x6A, 0x0A] = .ok (.ldImm 10 0x0A, []) ∧
    (∃ t, exec (.ldImm 10 0x0A) (start quiet).advancePc = .next t ∧ t.run = .running ∧ t.wait = none) ∧
    (∃ t w, exec (.ldVxKey 3) (start quiet).advancePc = .next t ∧ t.run = .running ∧ t.wait = some w) ∧
    (∃ t, exec .ret (start quiet).advancePc = .next t ∧ t.run = .halted .stackUnderflow) ∧
    (∃ r, exec (.skp 5) ((start quiet).setReg 5 16).advancePc = .refused r) :=
  ⟨⟨rfl, rfl, rfl⟩, ⟨rfl, rfl⟩, by decide, ⟨_, rfl, rfl, rfl⟩, ⟨_, _, rfl, rfl, rfl⟩, ⟨_, rfl, rfl⟩, ⟨_, rfl⟩⟩

/-- The first two values the rule covers: one byte in memory, none. -/
theorem witness_FetchOutOfRangeHalts :
    ({ start quiet with pc := 0xFFE } : State).ReadyToFetch ∧ ({ start quiet with pc := 0xFFF } : State).ReadyToFetch ∧
    (start quiet).params.memSize ≤ ({ start quiet with pc := 0xFFE } : State).pc.toNat + 1 ∧
    (start quiet).params.memSize ≤ ({ start quiet with pc := 0xFFF } : State).pc.toNat + 1 :=
  ⟨⟨rfl, rfl, rfl⟩, ⟨rfl, rfl, rfl⟩, by decide, by decide⟩

/-- The last fetch address, an odd one. -/
theorem witness_FetchIsBigEndian : ({ start quiet with pc := 0xFFD } : State).pc.toNat + 1 < (start quiet).params.memSize := by
  decide

theorem witness_IllegalOpcodeHalts :
    ((start quiet).placeWord 0xFFFF).ReadyToFetch ∧ ((start quiet).placeWord 0xFFFF).HasCode 0xFF 0xFF ∧
    (0xFFFF#16).toNat = 256 * (0xFF#8).toNat + (0xFF#8).toNat ∧
    decodeWord 0xFFFF#16 = .error (.illegalOpcode 0xFFFF#16) :=
  ⟨⟨rfl, rfl, rfl⟩, ⟨rfl, rfl⟩, by decide, by decide⟩

theorem witness_QuitHaltsAndKeepsState : (start { quiet with poll := .quit }).run = .running ∧
    (start { quiet with poll := .quit }).wait = none ∧ (start { quiet with poll := .quit }).inputs.poll = .quit := by decide

theorem witness_HaltedStepChangesNothing : (start quiet).quit.run = .halted .userQuit := by decide

/-- Two registers stored where the next fetch is. -/
theorem witness_StoreIsSeenByNextFetch : (0 : Nat) + 1 < 16 ∧
    Memory.wf ({ start quiet with i := 0x200 } : State).params.memSize ({ start quiet with i := 0x200 } : State).mem = true ∧
    ({ start quiet with i := 0x200 } : State).effAddr (1 : Reg).val < (start quiet).params.memSize ∧ 0 + 1 ≤ (1 : Reg).val ∧
    ({ start quiet with i := 0x200 } : State).pc.toNat = ({ start quiet with i := 0x200 } : State).effAddr 0 := by decide

theorem witness_SelfJumpIsAFixedPoint :
    ((start quiet).placeWord 0x1200).ReadyToFetch ∧ ((start quiet).placeWord 0x1200).HasCode 0x12 0x00 ∧
    decode [0x12, 0x00] = .ok (.jmp 0x200, []) ∧ (0x200#12).toNat = ((start quiet).placeWord 0x1200).pc.toNat ∧
    ((start quiet).placeWord 0x1200).dt = 0 ∧ ((start quiet).placeWord 0x1200).st = 0 :=
  ⟨⟨rfl, rfl, rfl⟩, ⟨rfl, rfl⟩, by decide, by decide, rfl, rfl⟩

/-- The largest image of the default size, and one byte more. -/
theorem witness_ResetLoadsTheImage :
    0x200 + (List.replicate 3583 (0 : Byte)).length ≤ Params.default.memSize ∧
    Params.default.memSize < 0x200 + (List.replicate 3584 (0 : Byte)).length := by
  simp only [List.length_replicate]
  decide

/-- The default reset, and one with 4096 bytes of memory in `Tick60` mode. -/
theorem witness_ResetWithSatisfiesInvariant : paramsOk Params.default ∧
    (∃ s, State.resetWith Params.default defaultFont [0x12, 0x00] = some s) ∧
    paramsOk { timerMode := .tick60, iOverflowBound := 0xFFF, memSize := 0x1000 } ∧
    (∃ s, State.resetWith { timerMode := .tick60, iOverflowBound := 0xFFF, memSize := 0x1000 } defaultFont [] = some s) := by
  refine ⟨by unfold paramsOk; decide, ⟨_, if_pos (by decide)⟩, by unfold paramsOk; decide, ⟨_, if_pos (by decide)⟩⟩

/-- `StepKeepsInvariant`, `StepKeepsParameters`: the state after reset with `LD VA, 0x0A` at its `pc`. -/
theorem witness_StepKeepsInvariant :
    ((start quiet).placeWord 0x6A0A).Inv ∧
      ∃ t, step ((start quiet).placeWord 0x6A0A) = .next t ∧ decide (t.reg 10 = 0x0A) = true := by
  refine ⟨⟨by unfold paramsOk; decide, rfl, fun _ => ⟨by decide, fun j hj => ?_, rfl⟩, fun _ h => by cases h⟩, exists_next (by decide)⟩
  exact absurd hj (Nat.not_lt_zero _)

/-- A blocked key wait meets the invariant too, and its step answers a next state. -/
theorem witness_StepKeepsInvariant_blocked :
    ({ start quiet with wait := some { x := 3, snapshot := keysDown [] } } : State).Inv ∧
      ∃ t, step { start quiet with wait := some { x := 3, snapshot := keysDown [] } } = .next t ∧ t.wait.isSome = true := by
  refine ⟨⟨by unfold paramsOk; decide, rfl, fun _ => ⟨by decide, fun j hj => ?_, rfl⟩, fun _ h => by cases h⟩, exists_next (by decide)⟩
  exact absurd hj (Nat.not_lt_zero _)

/-- `InstructionsKeepTheRest`, `ExecuteHaltsOnlyAsItsInstructionCan`. -/
theorem witness_InstructionsKeepTheRest :
    ∃ t, exec (.storeRegs 3) { start quiet with i := 0x300 } = .next t ∧ decide (t.run = .running) = true :=
  exists_next (by decide)

theorem witness_StepRefusesOnlyKeyIndexes :
    ∃ r, step (((start quiet).setReg 5 16).placeWord 0xE59E) = .refused r := ⟨_, rfl⟩

theorem witness_OtherInstructionsIgnoreInputs : readsInputs (.drw 1 2 5) = false := by decide

theorem witness_DecodeOfEncodeIsTheInstruction : (Instr.jmp0 0xFFF).wellFormed = true := by decide

theorem witness_EncodeOfDecodeIsTheWord : decodeWord 0xD125#16 = .ok (.drw 1 2 5#4) := by decide

/-- Both clauses of `DecodeSelectsTheTableRow`, and both directions of `IllegalSetIsComplete`. -/
theorem witness_DecodeSelectsTheTableRow : decodeWord 0x00E0#16 = .ok .cls ∧
    decodeWord 0x5001#16 = .error (.illegalOpcode 0x5001#16) := by decide

end Sys2Proof.Tests.Slice0
end

/-! ## State: frames, resets, and the invariant of every step (R29, R37 to R39, R126, R300)

The frame rules of the state's operations, two inversion lemmas (everything `exec` and `step` can answer), and the obligations
about reset, the access table, the parameters and the invariant. -/

namespace Sys2Proof.Machine

/-! ### Frame rules: a state within a frame stays within it under an operation whose piece of state the frame names -/

theorem Frame.refl {c : List Part} {s : State} : Frame c s s := by
  intro p _
  cases p <;> simp [Part.same]

section
variable {c : List Part} {s t : State}

theorem Frame.setV {v : Vector Byte 16} (h : Frame c s t) (hw : .regs ∈ c) : Frame c s (t.setV v) := fun p hp => by
  cases p with
  | regs => exact absurd hw hp
  | _ => exact h _ hp

theorem Frame.setI {w : Word} (h : Frame c s t) (hw : .index ∈ c) : Frame c s (t.setI w) := fun p hp => by
  cases p with
  | index => exact absurd hw hp
  | _ => exact h _ hp

theorem Frame.setPc {w : Word} (h : Frame c s t) (hw : .pc ∈ c) : Frame c s (t.setPc w) := fun p hp => by
  cases p with
  | pc => exact absurd hw hp
  | _ => exact h _ hp

theorem Frame.setDt {b : Byte} (h : Frame c s t) (hw : .delay ∈ c) : Frame c s (t.setDt b) := fun p hp => by
  cases p with
  | delay => exact absurd hw hp
  | _ => exact h _ hp

theorem Frame.setSt {b : Byte} (h : Frame c s t) (hw : .sound ∈ c) : Frame c s (t.setSt b) := fun p hp => by
  cases p with
  | sound => exact absurd hw hp
  | _ => exact h _ hp

theorem Frame.setUf {uf : Vector Byte 8} (h : Frame c s t) (hw : .userFlags ∈ c) : Frame c s (t.setUf uf) := fun p hp => by
  cases p with
  | userFlags => exact absurd hw hp
  | _ => exact h _ hp

theorem Frame.setMem {m : Memory} (h : Frame c s t) (hw : .memory ∈ c) : Frame c s (t.setMem m) := fun p hp => by
  cases p with
  | memory => exact absurd hw hp
  | _ => exact h _ hp

theorem Frame.setDisp {d : Display} (h : Frame c s t) (hw : .display ∈ c) : Frame c s (t.setDisp d) := fun p hp => by
  cases p with
  | display => exact absurd hw hp
  | _ => exact h _ hp

theorem Frame.setWait {w : Option KeyWait} (h : Frame c s t) (hw : .wait ∈ c) : Frame c s (t.setWait w) := fun p hp => by
  cases p with
  | wait => exact absurd hw hp
  | _ => exact h _ hp

theorem Frame.setReg {x : Reg} {b : Byte} (h : Frame c s t) (hw : .regs ∈ c) : Frame c s (t.setReg x b) := h.setV hw

/-- The update of `push` and `pop`. -/
theorem Frame.setCallStack {stack : Vector Word 16} {sp : Fin 17} (h : Frame c s t) (hw : .callStack ∈ c) :
    Frame c s { t with stack := stack, sp := sp } := fun p hp => by
  cases p with
  | callStack => exact absurd hw hp
  | _ => exact h _ hp

end

/-! ### Registers kept -/

theorem RegsKept.setReg {l : List Reg} {s t : State} {x : Reg} {b : Byte} (h : RegsKept l s t) (hx : x ∈ l) :
    RegsKept l s (t.setReg x b) := fun r hr => by
  have hne : r ≠ x := fun e => hr (e ▸ hx)
  rw [State.setReg_reg_of_ne _ _ _ _ hne, h r hr]

/-- An overwrite of `V[0]` on writes the registers its list covers. -/
theorem RegsKept.overwriteRegs {l : List Reg} {s t : State} {bs : List Byte} (h : RegsKept l s t)
    (hl : ∀ r : Reg, r.val < bs.length → r ∈ l) : RegsKept l s (t.setV (overwriteFrom t.v 0 bs)) := fun r hr => by
  have hlen : bs.length ≤ r.val := Nat.not_lt.1 fun hlt => hr (hl r hlt)
  have hv : (overwriteFrom t.v 0 bs)[r.val] = t.v[r.val] := by simp [overwriteFrom_getElem, hlen]
  exact hv.trans (h r hr)

theorem mem_allRegs (r : Reg) : r ∈ allRegs := mem_allKeys r

/-! ### Within an instruction's row of the access table -/

/-- `t` differs from `s` at most as the row of `i` in the access table allows (R38), and its memory is still canonical (log entry
9). -/
structure WithinAccess (i : Instr) (s t : State) : Prop where
  frame : Frame (mayWrite i) s t
  regs : RegsKept (mayWriteRegs i) s t
  canonical : Memory.wf s.params.memSize s.mem = true → Memory.wf s.params.memSize t.mem = true

namespace WithinAccess

theorem refl {i : Instr} {s : State} : WithinAccess i s s := ⟨.refl, fun _ _ => rfl, id⟩

section
variable {i : Instr} {s t : State}

theorem params (h : WithinAccess i s t) : t.params = s.params := h.frame .params (by cases i <;> simp [mayWrite])

theorem run (h : WithinAccess i s t) : t.run = s.run ∧ t.halt = s.halt := h.frame .run (by cases i <;> simp [mayWrite])

theorem setReg {x : Reg} {b : Byte} (h : WithinAccess i s t) (hw : .regs ∈ mayWrite i := by simp [mayWrite])
    (hx : x ∈ mayWriteRegs i := by simp [mayWriteRegs]) : WithinAccess i s (t.setReg x b) :=
  ⟨h.frame.setReg hw, h.regs.setReg hx, h.canonical⟩

theorem overwriteRegs {bs : List Byte} (h : WithinAccess i s t) (hl : ∀ r : Reg, r.val < bs.length → r ∈ mayWriteRegs i)
    (hw : .regs ∈ mayWrite i := by simp [mayWrite]) : WithinAccess i s (t.setV (overwriteFrom t.v 0 bs)) :=
  ⟨h.frame.setV hw, h.regs.overwriteRegs hl, h.canonical⟩

theorem setI {w : Word} (h : WithinAccess i s t) (hw : .index ∈ mayWrite i := by simp [mayWrite]) :
    WithinAccess i s (t.setI w) := ⟨h.frame.setI hw, h.regs, h.canonical⟩

theorem setPc {w : Word} (h : WithinAccess i s t) (hw : .pc ∈ mayWrite i := by simp [mayWrite]) :
    WithinAccess i s (t.setPc w) := ⟨h.frame.setPc hw, h.regs, h.canonical⟩

theorem skipIf {b : Bool} (h : WithinAccess i s t) (hw : .pc ∈ mayWrite i := by simp [mayWrite]) :
    WithinAccess i s (t.skipIf b) := h.setPc hw

theorem setCallStack {stack : Vector Word 16} {sp : Fin 17} (h : WithinAccess i s t)
    (hw : .callStack ∈ mayWrite i := by simp [mayWrite]) : WithinAccess i s { t with stack := stack, sp := sp } :=
  ⟨h.frame.setCallStack hw, h.regs, h.canonical⟩

theorem setDt {b : Byte} (h : WithinAccess i s t) (hw : .delay ∈ mayWrite i := by simp [mayWrite]) :
    WithinAccess i s (t.setDt b) := ⟨h.frame.setDt hw, h.regs, h.canonical⟩

theorem setSt {b : Byte} (h : WithinAccess i s t) (hw : .sound ∈ mayWrite i := by simp [mayWrite]) :
    WithinAccess i s (t.setSt b) := ⟨h.frame.setSt hw, h.regs, h.canonical⟩

theorem setUf {uf : Vector Byte 8} (h : WithinAccess i s t) (hw : .userFlags ∈ mayWrite i := by simp [mayWrite]) :
    WithinAccess i s (t.setUf uf) := ⟨h.frame.setUf hw, h.regs, h.canonical⟩

theorem setDisp {d : Display} (h : WithinAccess i s t) (hw : .display ∈ mayWrite i := by simp [mayWrite]) :
    WithinAccess i s (t.setDisp d) := ⟨h.frame.setDisp hw, h.regs, h.canonical⟩

theorem waitKey {w : KeyWait} (h : WithinAccess i s t) (hw : .wait ∈ mayWrite i := by simp [mayWrite])
    (hr : .regs ∈ mayWrite i := by simp [mayWrite]) (hx : w.x ∈ mayWriteRegs i := by simp [mayWriteRegs]) :
    WithinAccess i s (t.waitKey w) := by
  have setWait : ∀ o, WithinAccess i s (t.setWait o) := fun _ => ⟨h.frame.setWait hw, h.regs, h.canonical⟩
  obtain ⟨k, -, heq⟩ | ⟨-, heq⟩ := t.waitKey_cases w
  · exact heq ▸ (setWait none).setReg hr hx
  · exact heq ▸ setWait (some w)

theorem writeBytes {m : Memory} {a : Nat} {bs : List Byte} (h : Memory.writeBytes s.params.memSize s.mem a bs = .ok m)
    (hw : .memory ∈ mayWrite i := by simp [mayWrite]) : WithinAccess i s (s.setMem m) :=
  ⟨Frame.refl.setMem hw, fun _ _ => rfl, fun hm => Memory.wf_writeBytes hm h⟩

end

end WithinAccess

/-! ### The faults an instruction raises during `Execute` -/

/-- `t` is the halt of a fault that `i` can raise, with a record that fits (R252 to R255, R260(5)). -/
def RaisesFault (i : Instr) (s t : State) : Prop :=
  ∃ reason badAddr, canRaise reason i ∧ t = s.raise i reason badAddr ∧
    HaltRecord.Fits s.params.memSize
      { cause := reason.code, instrAddr := s.pc - 2, opcode := some (encode i), badAddr := badAddr } reason

theorem RaisesFault.addressOutOfRange {i : Instr} {s : State} {bad : Nat} (hc : canRaise .addressOutOfRange i)
    (hbad : s.params.memSize ≤ bad) : RaisesFault i s (s.raise i .addressOutOfRange (some bad)) :=
  ⟨_, _, hc, rfl, bad, rfl, hbad⟩

/-- A fault leaves the engine halted. -/
theorem RaisesFault.not_running {i : Instr} {s t : State} (h : RaisesFault i s t) : t.run ≠ .running := by
  obtain ⟨reason, badAddr, -, rfl, -⟩ := h
  simp

/-- A read that fails reports an address outside the space. -/
theorem Memory.readBytes_error {size : Nat} {m : Memory} {a n bad : Nat} (h : Memory.readBytes size m a n = .error bad) :
    size ≤ bad := by
  by_cases hr : n = 0 ∨ a + n ≤ size
  · obtain ⟨bs, hbs⟩ := Memory.readBytes_inRange m hr
    cases h.symm.trans hbs
  · have hout := Memory.readBytes_outOfRange (size := size) m (a := a) (n := n) (by omega) (by omega)
    cases h.symm.trans hout
    exact Nat.le_max_right a size

/-- A write that fails reports an address outside the space. -/
theorem Memory.writeBytes_error {size : Nat} {m : Memory} {a bad : Nat} {bs : List Byte}
    (h : Memory.writeBytes size m a bs = .error bad) : size ≤ bad := by
  by_cases hr : bs.length = 0 ∨ a + bs.length ≤ size
  · obtain ⟨m', hm'⟩ := Memory.writeBytes_inRange m bs hr
    cases h.symm.trans hm'
  · have hout := Memory.writeBytes_outOfRange (size := size) m (a := a) bs (by omega) (by omega)
    cases h.symm.trans hout
    exact Nat.le_max_right a size

/-! ### What the instructions that can raise a fault, or read the keypad, answer -/

theorem execRet_next {s t : State} (h : exec .ret s = .next t) :
    (s.sp.val = 0 ∧ t = s.raise .ret .stackUnderflow none) ∨
    ∃ hsp : 0 < s.sp.val,
      t = State.setPc { s with sp := ⟨s.sp.val - 1, by omega⟩ } (s.stack[s.sp.val - 1]'(by omega)) := by
  obtain ⟨hsp, hpop⟩ | ⟨hsp, hpop⟩ := s.pop_cases
  · exact .inl ⟨hsp, by simpa [exec, execRet, hpop] using h.symm⟩
  · exact .inr ⟨hsp, by simpa [exec, execRet, hpop] using h.symm⟩

theorem execCall_next {nnn : BitVec 12} {s t : State} (h : exec (.call nnn) s = .next t) :
    (s.sp.val = 16 ∧ t = s.raise (.call nnn) .stackOverflow none) ∨
    ∃ hsp : s.sp.val < 16,
      t = State.setPc { s with stack := s.stack.set s.sp.val s.pc, sp := ⟨s.sp.val + 1, by omega⟩ } (zextNNN nnn) := by
  obtain ⟨hsp, hpush⟩ | ⟨hsp, hpush⟩ := s.push_cases s.pc
  · exact .inl ⟨hsp, by simpa [exec, execCall, hpush] using h.symm⟩
  · exact .inr ⟨hsp, by simpa [exec, execCall, hpush] using h.symm⟩

theorem execDrw_next {x y : Reg} {n : BitVec 4} {s t : State} (h : exec (.drw x y n) s = .next t) :
    (∃ bad, Memory.readBytes s.params.memSize s.mem (s.effAddr 0) n.toNat = .error bad ∧
      t = s.raise (.drw x y n) .addressOutOfRange (some bad)) ∨
    ∃ bytes, Memory.readBytes s.params.memSize s.mem (s.effAddr 0) n.toNat = .ok bytes ∧
      t = (s.setDisp (displayDraw s.disp (s.reg x) (s.reg y) bytes).1).setReg vf
        (flagByte (displayDraw s.disp (s.reg x) (s.reg y) bytes).2) := by
  cases hread : Memory.readBytes s.params.memSize s.mem (s.effAddr 0) n.toNat with
  | error bad => exact .inl ⟨bad, rfl, by simpa [exec, execDrw, hread] using h.symm⟩
  | ok bytes => exact .inr ⟨bytes, rfl, by simpa [exec, execDrw, hread] using h.symm⟩

theorem execLoadRegs_next {x : Reg} {s t : State} (h : exec (.loadRegs x) s = .next t) :
    (∃ bad, Memory.readBytes s.params.memSize s.mem (s.effAddr 0) (rangeCount x) = .error bad ∧
      t = s.raise (.loadRegs x) .addressOutOfRange (some bad)) ∨
    ∃ bs, Memory.readBytes s.params.memSize s.mem (s.effAddr 0) (rangeCount x) = .ok bs ∧
      t = s.setV (overwriteFrom s.v 0 bs) := by
  cases hread : Memory.readBytes s.params.memSize s.mem (s.effAddr 0) (rangeCount x) with
  | error bad => exact .inl ⟨bad, rfl, by simpa [exec, execLoadRegs, hread] using h.symm⟩
  | ok bs => exact .inr ⟨bs, rfl, by simpa [exec, execLoadRegs, hread] using h.symm⟩

theorem execSkp_next {x : Reg} {s t : State} (h : exec (.skp x) s = .next t) : ∃ b, t = s.skipIf b := by
  by_cases hx : (s.reg x).toNat < 16
  · exact ⟨_, by simpa [exec, execSkp, hx] using h.symm⟩
  · simp [exec, execSkp, hx] at h

theorem execSknp_next {x : Reg} {s t : State} (h : exec (.sknp x) s = .next t) : ∃ b, t = s.skipIf b := by
  by_cases hx : (s.reg x).toNat < 16
  · exact ⟨_, by simpa [exec, execSknp, hx] using h.symm⟩
  · simp [exec, execSknp, hx] at h

/-- A store stays within a row that names memory, or raises `AddressOutOfRange`. -/
theorem storeBytes_raises_or_within {i : Instr} {s : State} {a : Nat} {bs : List Byte}
    (hc : canRaise .addressOutOfRange i) (hw : .memory ∈ mayWrite i) :
    RaisesFault i s (s.storeBytes i a bs) ∨ WithinAccess i s (s.storeBytes i a bs) := by
  obtain ⟨m, hm, heq⟩ | ⟨bad, hbad, heq⟩ := s.storeBytes_cases i a bs
  · exact .inr (heq ▸ .writeBytes hm hw)
  · exact .inl (heq ▸ .addressOutOfRange hc (Memory.writeBytes_error hbad))

/-- Everything `exec` can answer: a fault the instruction can raise, or a state within its row of the access table. -/
theorem exec_raises_or_within {i : Instr} {s t : State} (h : exec i s = .next t) :
    RaisesFault i s t ∨ WithinAccess i s t := by
  cases i with
  | cls => cases h; exact .inr (.setDisp .refl)
  | ret =>
    obtain ⟨-, rfl⟩ | ⟨hsp, rfl⟩ := execRet_next h
    · exact .inl ⟨.stackUnderflow, none, rfl, rfl, rfl, rfl⟩
    · exact .inr (.setPc (.setCallStack .refl))
  | call nnn =>
    obtain ⟨-, rfl⟩ | ⟨hsp, rfl⟩ := execCall_next h
    · exact .inl ⟨.stackOverflow, none, ⟨nnn, rfl⟩, rfl, ⟨nnn, rfl⟩, rfl⟩
    · exact .inr (.setPc (.setCallStack .refl))
  | jmp0 | jmp | jmpV0 => cases h; exact .inr (.setPc .refl)
  | seImm | sneImm | seReg | sneReg => cases h; exact .inr (.skipIf .refl)
  | skp => obtain ⟨b, rfl⟩ := execSkp_next h; exact .inr (.skipIf .refl)
  | sknp => obtain ⟨b, rfl⟩ := execSknp_next h; exact .inr (.skipIf .refl)
  | ldImm | addImm | ldReg | orReg | andReg | xorReg | rnd | ldVxDt => cases h; exact .inr (.setReg .refl)
  | addReg | subReg | shr | subnReg | shl => cases h; exact .inr (.setReg (.setReg .refl))
  | ldI | ldFont => cases h; exact .inr (.setI .refl)
  | addI => cases h; exact .inr (.setReg (.setI .refl))
  | ldDtVx => cases h; exact .inr (.setDt .refl)
  | ldStVx => cases h; exact .inr (.setSt .refl)
  | ldVxKey => cases h; exact .inr (.waitKey .refl)
  | drw x y n =>
    obtain ⟨bad, hbad, rfl⟩ | ⟨bytes, -, rfl⟩ := execDrw_next h
    · exact .inl (.addressOutOfRange (.inl ⟨x, y, n, rfl⟩) (Memory.readBytes_error hbad))
    · exact .inr (.setReg (.setDisp .refl))
  | ldBcd x => cases h; exact storeBytes_raises_or_within (.inr (.inl ⟨x, rfl⟩)) (by simp [mayWrite])
  | storeRegs x => cases h; exact storeBytes_raises_or_within (.inr (.inr (.inl ⟨x, rfl⟩))) (by simp [mayWrite])
  | loadRegs x =>
    obtain ⟨bad, hbad, rfl⟩ | ⟨bs, hbs, rfl⟩ := execLoadRegs_next h
    · exact .inl (.addressOutOfRange (.inr (.inr (.inr ⟨x, rfl⟩))) (Memory.readBytes_error hbad))
    · have hlen : bs.length = x.val + 1 := (Memory.readBytes_ok hbs).1
      exact .inr (.overwriteRegs .refl fun r hr => by simp [mayWriteRegs, mem_allRegs]; omega)
  | saveFlags => cases h; exact .inr (.setUf .refl)
  | restoreFlags x =>
    cases h
    have hlen : (firstEntries s.uf (flagCount x)).length = min x.val 7 + 1 := by
      rw [firstEntries_length, flagCount]; omega
    exact .inr (.overwriteRegs .refl fun r hr => by simp [mayWriteRegs, mem_allRegs]; omega)

/-- Settles O49: an answer that is running raised no fault, so it is within the instruction's row. -/
theorem instructionsKeepTheRest : Obligations.InstructionsKeepTheRest := by
  intro i s t h hrun
  obtain hraise | hwithin := exec_raises_or_within h
  · exact absurd hrun hraise.not_running
  · exact ⟨hwithin.frame, hwithin.regs⟩

/-! ### The end of a step, and a step -/

/-- The end of a step writes the timers and the model's own fields alone. -/
theorem State.endStep_eq (s : State) :
    ∃ dt st script clock, s.endStep = { s with dt := dt, st := st, script := script, clock := clock } := by
  obtain ⟨reason, -, heq⟩ | ⟨w, -, -, heq⟩ | ⟨-, -, heq⟩ := s.endStep_cases
  · exact ⟨s.dt, s.st, s.script, s.clock, heq⟩
  · exact ⟨s.dt, s.st, _, _, heq⟩
  · exact ⟨_, _, _, _, by rw [heq, State.timerPhase_eq]; rfl⟩

theorem State.endStep_params (s : State) : s.endStep.params = s.params := by
  obtain ⟨_, _, _, _, heq⟩ := s.endStep_eq
  rw [heq]

theorem State.waitKey_params (s : State) (w : KeyWait) : (s.waitKey w).params = s.params := by
  obtain ⟨k, -, heq⟩ | ⟨-, heq⟩ := s.waitKey_cases w <;> simp [heq]

/-- The one error an answer of the decoder for `w` can be. -/
def OnlyIllegalOpcode (w : Word) (r : Except DecodeError Instr) : Prop := ∀ e, r = .error e → e = .illegalOpcode w

namespace OnlyIllegalOpcode

variable {w : Word}

theorem ok {i : Instr} : OnlyIllegalOpcode w (.ok i) := fun _ h => nomatch h

theorem illegal : OnlyIllegalOpcode w (.error (.illegalOpcode w)) := fun _ h => by cases h; rfl

theorem ite {p : Prop} [Decidable p] {a b : Except DecodeError Instr} (ha : OnlyIllegalOpcode w a)
    (hb : OnlyIllegalOpcode w b) : OnlyIllegalOpcode w (if p then a else b) := by
  split
  · exact ha
  · exact hb

end OnlyIllegalOpcode

theorem decodeGroup8_onlyIllegalOpcode (w : Word) : OnlyIllegalOpcode w (decodeGroup8 w) := by
  unfold decodeGroup8
  repeat refine .ite .ok ?_
  exact .illegal

theorem decodeGroupE_onlyIllegalOpcode (w : Word) : OnlyIllegalOpcode w (decodeGroupE w) := .ite .ok <| .ite .ok .illegal

theorem decodeGroupF_onlyIllegalOpcode (w : Word) : OnlyIllegalOpcode w (decodeGroupF w) := by
  unfold decodeGroupF
  repeat refine .ite .ok ?_
  exact .illegal

/-- A word that is no instruction is reported as an illegal opcode (R94, R97). -/
theorem decodeWord_onlyIllegalOpcode (w : Word) : OnlyIllegalOpcode w (decodeWord w) :=
  .ite .ok <| .ite .ok <| .ite .ok <| .ite .ok <| .ite .ok <| .ite (.ite .ok .illegal) <| .ite .ok <| .ite .ok <|
    .ite (decodeGroup8_onlyIllegalOpcode w) <| .ite (.ite .ok .illegal) <| .ite .ok <| .ite .ok <| .ite .ok <| .ite .ok <|
    .ite (decodeGroupE_onlyIllegalOpcode w) (decodeGroupF_onlyIllegalOpcode w)

/-- The fetch succeeds only with both bytes in the space, and otherwise reports an address outside it. -/
theorem State.fetch_ok {s : State} {w : Word} (h : s.fetch = .ok w) : s.pc.toNat + 1 < s.params.memSize := by
  obtain ⟨hlt, -⟩ | ⟨-, herr⟩ := Memory.readWord_cases (size := s.params.memSize) s.mem s.pc.toNat
  · exact hlt
  · cases h.symm.trans herr

theorem State.fetch_error {s : State} {bad : Nat} (h : s.fetch = .error bad) : s.params.memSize ≤ bad := by
  obtain ⟨-, hok⟩ | ⟨-, herr⟩ := Memory.readWord_cases (size := s.params.memSize) s.mem s.pc.toNat
  · cases h.symm.trans hok
  · cases h.symm.trans herr
    exact Nat.le_max_right _ _

/-- The next states a step from `s` can answer, each with the way to it (R120, R260). -/
inductive StepEnd (s : State) : State → Prop where
  | halted {reason : HaltReason} (hrun : s.run = .halted reason) : StepEnd s s
  | blocked {w : KeyWait} (hrun : s.run = .running) (hwait : s.wait = some w) : StepEnd s (s.waitKey w).endStep
  | quit (hrun : s.run = .running) (hwait : s.wait = none) (hpoll : s.inputs.poll = .quit) : StepEnd s s.quit
  | fetchFault {bad : Nat} (hready : s.ReadyToFetch) (hfetch : s.fetch = .error bad) :
      StepEnd s (s.fatalHalt s.pc .addressOutOfRange none (some bad))
  | illegalOpcode {w : Word} (hready : s.ReadyToFetch) (hfetch : s.fetch = .ok w)
      (hdecode : decodeWord w = .error (.illegalOpcode w)) :
      StepEnd s (s.advancePc.fatalHalt s.pc .illegalOpcode (some w) none)
  | executed {w : Word} {i : Instr} {t : State} (hready : s.ReadyToFetch) (hfetch : s.fetch = .ok w)
      (hdecode : decodeWord w = .ok i) (hexec : exec i s.advancePc = .next t) : StepEnd s t.endStep

theorem stepEnd_of_next {s t : State} (h : step s = .next t) : StepEnd s t := by
  have ofDone : ∀ u, s.prepare = .done u → t = u := fun u hp => by simpa [step, hp] using h.symm
  obtain ⟨reason, hr, hp⟩ | ⟨w, hr, hw, hp⟩ | ⟨hr, hw, hq, hp⟩ | ⟨hr, hw, hq, hp⟩ := s.prepare_cases
  · obtain rfl := ofDone _ hp
    exact .halted hr
  · exact ofDone _ hp ▸ .blocked hr hw
  · exact ofDone _ hp ▸ .quit hr hw hq
  · obtain ⟨bad, hf, hd⟩ | ⟨w, e, hf, he, hd⟩ | ⟨w, i, hf, hi, hd⟩ := s.fetchDecode_cases
    · exact ofDone _ (hp.trans hd) ▸ .fetchFault ⟨hr, hw, hq⟩ hf
    · exact ofDone _ (hp.trans hd) ▸ .illegalOpcode ⟨hr, hw, hq⟩ hf (decodeWord_onlyIllegalOpcode w e he ▸ he)
    · have hstep : endOutcome (exec i s.advancePc) = .next t := by simpa [step, hp, hd] using h
      cases hx : exec i s.advancePc with
      | next u =>
        rw [hx] at hstep
        cases hstep
        exact .executed ⟨hr, hw, hq⟩ hf hi hx
      | fault r => cases r
      | refused r =>
        rw [hx] at hstep
        cases hstep

theorem RaisesFault.params {i : Instr} {s t : State} (h : RaisesFault i s t) : t.params = s.params := by
  obtain ⟨reason, badAddr, -, rfl, -⟩ := h
  simp

theorem exec_params {i : Instr} {s t : State} (h : exec i s = .next t) : t.params = s.params :=
  (exec_raises_or_within h).elim RaisesFault.params WithinAccess.params

/-- Settles O52: each way a step can end keeps the parameters. -/
theorem stepKeepsParameters : Obligations.StepKeepsParameters := by
  intro s t h
  cases stepEnd_of_next h with
  | halted | quit | fetchFault | illegalOpcode => rfl
  | blocked => rw [State.endStep_params, State.waitKey_params]
  | executed _ _ _ hexec => rw [State.endStep_params, exec_params hexec, State.advancePc_params]

/-! ### The invariant (R39), by run state -/

theorem State.inv_of_running {s : State} (hrun : s.run = .running) (hp : paramsOk s.params)
    (hm : Memory.wf s.params.memSize s.mem = true) (hok : s.RunningOk) : s.Inv :=
  ⟨hp, hm, fun _ => hok, fun _ h => by cases hrun.symm.trans h⟩

theorem State.inv_of_halted {s : State} {reason : HaltReason} (hrun : s.run = .halted reason) (hp : paramsOk s.params)
    (hm : Memory.wf s.params.memSize s.mem = true) (hok : s.HaltedOk reason) : s.Inv :=
  ⟨hp, hm, fun h => (by cases hrun.symm.trans h), fun _ h => by cases hrun.symm.trans h; exact hok⟩

/-- A fatal halt whose record fits meets the invariant, whatever it leaves elsewhere (R257). -/
theorem State.fatalHalt_inv {s : State} {addr : Word} {reason : HaltReason} {opcode : Option Word} {badAddr : Option Nat}
    (hp : paramsOk s.params) (hfits : HaltRecord.Fits s.params.memSize
      { cause := reason.code, instrAddr := addr, opcode := opcode, badAddr := badAddr } reason) :
    (s.fatalHalt addr reason opcode badAddr).Inv :=
  State.inv_of_halted rfl hp (Memory.wf_ofCells _) ⟨rfl, _, rfl, rfl, hfits⟩

theorem State.endStep_inv {s : State} (h : s.Inv) : s.endStep.Inv := by
  obtain ⟨_, _, _, _, heq⟩ := s.endStep_eq
  exact heq ▸ h

/-- Going on with a key wait touches nothing the invariant of a running engine speaks of. -/
theorem State.waitKey_inv {s : State} {w : KeyWait} (hrun : s.run = .running) (h : s.Inv) : (s.waitKey w).Inv := by
  obtain ⟨hp, hm, hok, -⟩ := h
  obtain ⟨k, -, heq⟩ | ⟨-, heq⟩ := s.waitKey_cases w
  · exact heq ▸ State.inv_of_running hrun hp hm (hok hrun)
  · exact heq ▸ State.inv_of_running hrun hp hm (hok hrun)

theorem State.quit_inv {s : State} (hw : s.wait = none) (h : s.Inv) : s.quit.Inv := by
  obtain ⟨hp, hm, -, -⟩ := h
  exact State.inv_of_halted rfl hp hm ⟨hw, _, rfl, rfl, rfl, rfl⟩

/-! ### `pc` and the live call-stack entries under `exec` -/

/-- R39(d): every live entry of the call stack is in 2..`size`. -/
def State.LiveEntriesIn (size : Nat) (s : State) : Prop :=
  ∀ j : Fin 16, j.val < s.sp.val → 2 ≤ (s.stack[j.val]).toNat ∧ (s.stack[j.val]).toNat ≤ size

theorem zextNNN_toNat (nnn : BitVec 12) : (zextNNN nnn).toNat = nnn.toNat :=
  BitVec.toNat_setWidth_of_le (by decide)

/-- R158: the sum of a byte and a 12-bit address is at most 0x10FE. -/
theorem jumpV0Target_le (v0 : Byte) (nnn : BitVec 12) : (jumpV0Target v0 nnn).toNat ≤ 0x10FE := by
  have hsum : (jumpV0Target v0 nnn).toNat = (v0.toNat + nnn.toNat) % 65536 := by
    simp [jumpV0Target, zextByte, zextNNN]
  omega

/-- Advancing from an address up to 0xFFFC does not wrap (R23, log entry 11). -/
theorem toNat_add_two {w : Word} (h : w.toNat ≤ 0xFFFC) : (w + 2).toNat = w.toNat + 2 := by
  bv_omega

/-- A skip from a post-fetch PC in the space leads at most 2 past it. -/
theorem State.skipIf_pc_le {s : State} {size : Nat} {b : Bool} (hpc : s.pc.toNat ≤ size) (hsize : size ≤ 0xFFFC) :
    (s.skipIf b).pc.toNat ≤ size + 2 := by
  cases b with
  | false => exact Nat.le_add_right_of_le hpc
  | true => exact (toNat_add_two (hpc.trans hsize)).trans_le (Nat.add_le_add_right hpc 2)

/-- A push of an address in 2..`size` keeps the live entries there. -/
theorem State.liveEntriesIn_push {s : State} {size : Nat} {w : Word} (hsp : s.sp.val < 16) (h : s.LiveEntriesIn size)
    (hw : 2 ≤ w.toNat ∧ w.toNat ≤ size) :
    State.LiveEntriesIn size { s with stack := s.stack.set s.sp.val w, sp := ⟨s.sp.val + 1, by omega⟩ } := by
  intro j hj
  by_cases hjs : s.sp.val = j.val
  · simpa [hjs] using hw
  · simpa [Vector.getElem_set_ne, hjs] using h j (by simp only at hj; omega)

/-- From a post-fetch PC and live entries in 2..`size`, an instruction that completes leaves `pc` within R39(c) and the live
entries where they were: only control transfers move either. -/
theorem exec_pc_le_and_liveEntriesIn {i : Instr} {s t : State} {size : Nat} (h : exec i s = .next t) (hrun : t.run = .running)
    (hsize : size ≤ 0xFFFC) (hpc : 2 ≤ s.pc.toNat ∧ s.pc.toNat ≤ size) (hlive : s.LiveEntriesIn size) :
    t.pc.toNat ≤ max 0x10FE (size + 2) ∧ t.LiveEntriesIn size := by
  have jump : ∀ nnn, (zextNNN nnn).toNat ≤ max 0x10FE (size + 2) := fun nnn => by rw [zextNNN_toNat]; omega
  have skip : ∀ b, (s.skipIf b).pc.toNat ≤ max 0x10FE (size + 2) := fun b =>
    le_max_of_le_right (State.skipIf_pc_le hpc.2 hsize)
  cases i with
  | ret =>
    obtain ⟨-, rfl⟩ | ⟨hsp, rfl⟩ := execRet_next h
    · cases hrun
    · have htop := hlive ⟨s.sp.val - 1, by omega⟩ (by simp only; omega)
      exact ⟨le_max_of_le_right (Nat.le_add_right_of_le htop.2), fun j hj => hlive j (by simp at hj; omega)⟩
  | call nnn =>
    obtain ⟨-, rfl⟩ | ⟨hsp, rfl⟩ := execCall_next h
    · cases hrun
    · exact ⟨jump nnn, State.liveEntriesIn_push hsp hlive hpc⟩
  | jmp0 nnn | jmp nnn => cases h; exact ⟨jump nnn, hlive⟩
  | jmpV0 nnn => cases h; exact ⟨le_max_of_le_left (jumpV0Target_le _ nnn), hlive⟩
  | seImm | sneImm | seReg | sneReg => cases h; exact ⟨skip _, hlive⟩
  | skp => obtain ⟨b, rfl⟩ := execSkp_next h; exact ⟨skip b, hlive⟩
  | sknp => obtain ⟨b, rfl⟩ := execSknp_next h; exact ⟨skip b, hlive⟩
  | _ =>
    obtain ⟨hframe, -⟩ := instructionsKeepTheRest _ s t h hrun
    have hpcSame : t.pc = s.pc := hframe .pc (by simp [mayWrite])
    obtain ⟨hsp, hstack⟩ : t.sp = s.sp ∧ t.stack = s.stack := hframe .callStack (by simp [mayWrite])
    refine ⟨by rw [hpcSame]; omega, fun j hj => ?_⟩
    simpa [hstack] using hlive j (hsp ▸ hj)

/-- `Execute` from the post-fetch state of a running engine keeps the invariant. -/
theorem exec_inv {i : Instr} {s t : State} (h : exec i s = .next t) (hrun : s.run = .running) (hp : paramsOk s.params)
    (hm : Memory.wf s.params.memSize s.mem = true) (hpc : 2 ≤ s.pc.toNat ∧ s.pc.toNat ≤ s.params.memSize)
    (hlive : s.LiveEntriesIn s.params.memSize) (hhalt : s.halt = none) : t.Inv := by
  obtain ⟨reason, badAddr, -, rfl, hfits⟩ | hwithin := exec_raises_or_within h
  · exact State.fatalHalt_inv hp hfits
  · have hparams := hwithin.params
    have htrun : t.run = .running := hwithin.run.1.trans hrun
    obtain ⟨htpc, htlive⟩ := exec_pc_le_and_liveEntriesIn h htrun hp hpc hlive
    refine State.inv_of_running htrun (hparams ▸ hp) (by rw [hparams]; exact hwithin.canonical hm) ?_
    rw [State.RunningOk, hparams]
    exact ⟨htpc, htlive, hwithin.run.2.trans hhalt⟩

/-- Settles O48: each way a step can end meets the invariant. The fetch bounds the post-fetch PC, which is what a `CALL` pushes
and a skip moves on from. -/
theorem stepKeepsInvariant : Obligations.StepKeepsInvariant := by
  intro s t hinv h
  have ⟨hp, hm, hok, _⟩ := hinv
  cases stepEnd_of_next h with
  | halted => exact hinv
  | blocked hrun => exact State.endStep_inv (State.waitKey_inv hrun hinv)
  | quit _ hwait => exact State.quit_inv hwait hinv
  | @fetchFault bad _ hfetch => exact State.fatalHalt_inv hp ⟨bad, rfl, State.fetch_error hfetch⟩
  | @illegalOpcode w _ _ hdecode =>
    exact State.fatalHalt_inv (s := s.advancePc) hp ⟨⟨w, rfl, hdecode⟩, rfl⟩
  | executed hready hfetch _ hexec =>
    obtain ⟨hrun, -, -⟩ := hready
    obtain ⟨-, hlive, hhalt⟩ := hok hrun
    have hlast := State.fetch_ok hfetch
    have hsize : s.params.memSize ≤ 0xFFFC := hp
    have hpc : s.advancePc.pc.toNat = s.pc.toNat + 2 := toNat_add_two (by omega)
    exact State.endStep_inv (exec_inv hexec hrun hp hm (by rw [hpc, State.advancePc_params]; omega) hlive hhalt)

/-! ### Reset (R37, R40 to R47, R300, R301) -/

/-- Outside the font's place an unlisted address reads as 0 (D13, log entry 7). -/
theorem resetByte_outside_font {a : Nat} (h : a < 0x50 ∨ 0xA0 ≤ a) : resetByte a = 0 := by
  rw [resetByte]
  split
  · have hlen : fontBytes.length ≤ a - Config.fontBase := by
      have : fontBytes.length = 80 := rfl
      simp only [Config.fontBase] at *; omega
    simp [List.getElem?_eq_none hlen]
  · rfl

theorem State.reset_readByte_of_lt {a : Nat} (h : a < 0xFFF) : State.reset.readByte a = some (resetByte a) :=
  Memory.read_of_lt _ h

/-- Settles O44: the fields by evaluation, the font byte by byte, the rest of memory by the reset byte. -/
theorem resetLeavesTheseValues : Obligations.ResetLeavesTheseValues := by
  refine ⟨rfl, rfl, rfl, rfl, rfl, rfl, rfl, rfl, ?regs, ?flags, ?stack, ?display, ?font, ?zero, ?outside, rfl, rfl, rfl⟩
  case regs => decide
  case flags => decide
  case stack => decide
  case display => exact Display.pixel_blank
  case font => decide
  case zero =>
    intro a ha
    rw [State.reset_readByte_of_lt (by omega), resetByte_outside_font (by omega)]
  case outside => exact fun a ha => Memory.read_of_ge _ ha

/-- The memory of a reset with a font and an image that fits (R301). -/
def resetMemory (size : Nat) (font : Vector Byte 80) (rom : List Byte) : Memory :=
  Memory.load size (Memory.load size [] Config.fontBase font.toList) Config.programOrigin rom

/-- It is canonical, it holds the font and the image, and reads everywhere else as after the default reset. -/
theorem resetMemory_spec {size : Nat} (font : Vector Byte 80) {rom : List Byte} (h : 0x200 + rom.length ≤ size) :
    Memory.wf size (resetMemory size font rom) = true ∧
    (∀ k : Fin 80, Memory.read size (resetMemory size font rom) (0x50 + k.val) = some font[k.val]) ∧
    (∀ k, k < rom.length → Memory.read size (resetMemory size font rom) (0x200 + k) = rom[k]?) ∧
    ∀ a, (a < 0x50 ∨ 0xA0 ≤ a) → (a < 0x200 ∨ 0x200 + rom.length ≤ a) →
      Memory.read size (resetMemory size font rom) a = Memory.read size [] a := by
  have hlen : font.toList.length = 80 := font.length_toList
  obtain ⟨hwf₁, hin₁, hout₁⟩ := Memory.load_spec (size := size) (m := []) (a := 0x50) (bytes := font.toList) rfl (by omega)
  obtain ⟨hwf, hin, hout⟩ := Memory.load_spec (a := 0x200) hwf₁ h
  refine ⟨hwf, fun k => ?_, hin, fun a hfont hrom => ?_⟩
  · rw [resetMemory, hout _ (by omega), hin₁ k.val (by omega)]
    simp
  · rw [resetMemory, hout a hrom, hout₁ a (by omega)]

/-- Reset with an image that fits differs from the default reset in its parameters and its memory alone. -/
theorem State.resetWith_of_fits {p : Params} (font : Vector Byte 80) {rom : List Byte} (h : 0x200 + rom.length ≤ p.memSize) :
    State.resetWith p font rom = some { State.reset with params := p, mem := resetMemory p.memSize font rom } := if_pos h

/-- Settles O45, from what the two loads of the reset put where. -/
theorem resetLoadsTheImage : Obligations.ResetLoadsTheImage := by
  intro p font rom
  refine ⟨fun hlong => if_neg (Nat.not_le.2 hlong), fun hfits => ?_⟩
  obtain ⟨-, hfont, hrom, helse⟩ := resetMemory_spec font hfits
  refine ⟨_, State.resetWith_of_fits font hfits, rfl, ?frame, hfont, hrom, ?zero, fun a ha => Memory.read_of_ge _ ha⟩
  case frame =>
    intro part hpart
    cases part with
    | memory | params => simp at hpart
    | callStack | run | inputs => exact ⟨rfl, rfl⟩
    | regs => exact fun _ => rfl
    | _ => rfl
  case zero =>
    intro a ha
    have ha' : a < p.memSize := by omega
    rw [State.readByte, helse a (by omega) (by omega), Memory.read_of_lt _ ha']
    exact congrArg some (resetByte_outside_font (by omega))

/-- The base case of the invariant: `pc` at 0x200, an empty call stack, no record. -/
theorem State.reset_inv {p : Params} {m : Memory} (hp : paramsOk p) (hm : Memory.wf p.memSize m = true) :
    State.Inv { State.reset with params := p, mem := m } :=
  State.inv_of_running rfl hp hm
    ⟨le_max_of_le_left (show 0x200 ≤ 0x10FE by decide), fun _ hj => absurd hj (Nat.not_lt_zero _), rfl⟩

/-- Settles O46: the case of the default parameters and no listed cell. -/
theorem resetSatisfiesInvariant : Obligations.ResetSatisfiesInvariant :=
  State.reset_inv (p := Params.default) (m := []) (by simp [paramsOk, Params.default]) rfl

/-- Settles O47: the loads of the reset keep memory canonical. -/
theorem resetWithSatisfiesInvariant : Obligations.ResetWithSatisfiesInvariant := by
  intro p font rom s hp hs
  obtain ⟨-, hnone⟩ | ⟨hfits, -⟩ := State.resetWith_cases p font rom
  · cases hs.symm.trans hnone
  · cases (State.resetWith_of_fits font hfits).symm.trans hs
    exact State.reset_inv hp (resetMemory_spec font hfits).1

end Sys2Proof.Machine

/-! ## Memory: the fetched opcode, and code an instruction has just stored (R62, R64, R74, R123)

What a fetch reads and what a store in range leaves, each said once, and from the two the obligations about fetched bytes. -/

namespace Sys2Proof.Machine

/-! ### The fetch -/

/-- Both bytes at `pc` are there when the second one's address is in the space, wherever `pc` is in it (D19). -/
theorem State.exists_hasCode {s : State} (h : s.pc.toNat + 1 < s.params.memSize) : ∃ hi lo, s.HasCode hi lo :=
  ⟨_, _, Memory.read_of_lt _ (Nat.lt_of_succ_lt h), Memory.read_of_lt _ h⟩

/-- The fetch gives the bytes at `pc` as a word, the first the more significant. -/
theorem State.fetch_of_hasCode {s : State} {hi lo : Byte} (h : s.HasCode hi lo) : s.fetch = .ok (wordOfBytes hi lo) := by
  obtain ⟨hhi, hlo⟩ := h
  simp only [State.readByte] at hhi hlo
  simp only [State.fetch, Memory.readWord, hhi, hlo]

/-- Settles O38: the bytes are there, and the fetch gives them as a word. -/
theorem fetchIsBigEndian : Obligations.FetchIsBigEndian := by
  intro s h
  obtain ⟨hi, lo, hcode⟩ := State.exists_hasCode h
  exact ⟨hi, lo, _, hcode, State.fetch_of_hasCode hcode, wordOfBytes_toNat hi lo⟩

/-! ### Stores in range -/

/-- A store in range leaves its bytes at their addresses, every other byte as it was, and changes memory alone. -/
theorem State.storeBytes_inRange {s : State} {a : Nat} {bs : List Byte} (i : Instr)
    (hm : Memory.wf s.params.memSize s.mem = true) (h : a + bs.length ≤ s.params.memSize) :
    (∀ k, k < bs.length → (s.storeBytes i a bs).readByte (a + k) = bs[k]?) ∧
      MemoryKeptOutside a bs.length s (s.storeBytes i a bs) ∧ Frame [.memory] s (s.storeBytes i a bs) := by
  obtain ⟨m, hok, heq⟩ | ⟨bad, herr, -⟩ := s.storeBytes_cases i a bs
  · obtain ⟨hin, hout⟩ := Memory.writeBytes_ok hok
    rw [heq]
    exact ⟨hin hm, hout, Frame.refl.setMem (List.mem_singleton_self _)⟩
  · obtain ⟨m, hok⟩ := Memory.writeBytes_inRange (size := s.params.memSize) s.mem bs (.inr h)
    cases hok.symm.trans herr

/-- R204 in range: `V[0]`..`V[x]` stand from `I` on, every other byte is as it was, and memory alone changes. -/
theorem execStoreRegs_inRange {s : State} {x : Reg} (hm : Memory.wf s.params.memSize s.mem = true)
    (h : s.effAddr x.val < s.params.memSize) :
    ∃ t, exec (.storeRegs x) s = .next t ∧ (∀ k : Reg, k.val ≤ x.val → t.readByte (s.effAddr k.val) = some (s.reg k)) ∧
      MemoryKeptOutside (s.effAddr 0) (x.val + 1) s t ∧ Frame [.memory] s t := by
  have hlen : (firstEntries s.v (rangeCount x)).length = x.val + 1 := by
    rw [firstEntries_length, rangeCount]; omega
  obtain ⟨hin, hkept, hframe⟩ := State.storeBytes_inRange (bs := firstEntries s.v (rangeCount x)) (a := s.effAddr 0)
    (.storeRegs x) hm (by simp only [State.effAddr] at *; omega)
  refine ⟨_, rfl, fun k hk => ?_, hlen ▸ hkept, hframe⟩
  have hentry := hin k.val (by omega)
  have hcount : k.val < rangeCount x := Nat.lt_succ_of_le hk
  rw [firstEntries_getElem?, if_pos hcount, Vector.getElem?_eq_getElem k.isLt] at hentry
  exact hentry

/-- Settles O42: the store leaves `pc` and `MEM_SIZE` as they are and `V[k]`, `V[k + 1]` at `pc`, where the fetch reads them. -/
theorem storeIsSeenByNextFetch : Obligations.StoreIsSeenByNextFetch := by
  intro s x k h hm hrange hk hpc
  obtain ⟨t, hexec, hstored, -, hframe⟩ := execStoreRegs_inRange hm hrange
  have htpc : t.pc = s.pc := hframe .pc (by simp)
  have hcode : t.HasCode s.v[k] s.v[k + 1] := by
    rw [State.HasCode, htpc, hpc]
    exact ⟨hstored ⟨k, by omega⟩ (Nat.le_of_succ_le hk), hstored ⟨k + 1, h⟩ hk⟩
  exact ⟨t, hexec, State.fetch_of_hasCode hcode⟩

end Sys2Proof.Machine

/-! ## Encoding: fields and formats, the decoder against the encoder, the table and the illegal set (R90 to R97)

The fields of a packed word and the word packed from fields, each said once; from them the decoder inverts the encoder, the
encoder inverts the decoder, and the opcode table agrees with both. -/

namespace Sys2Proof.Machine

/-! ### Fields of a packed word (R91, R92) -/

section
variable (op : BitVec 4) (x y : Reg) (n : BitVec 4) (kk : Byte) (nnn : BitVec 12)

@[simp] theorem fieldOp_packNNN : fieldOp (packNNN op nnn) = op := by
  unfold fieldOp packNNN
  ext k hk
  interval_cases k <;> simp

@[simp] theorem fieldNNN_packNNN : fieldNNN (packNNN op nnn) = nnn := by
  unfold fieldNNN packNNN
  ext k hk
  interval_cases k <;> simp

@[simp] theorem fieldOp_packXKK : fieldOp (packXKK op x kk) = op := by
  unfold fieldOp packXKK
  ext k hk
  interval_cases k <;> simp

@[simp] theorem fieldX_packXKK : fieldX (packXKK op x kk) = x := by
  have hbits : (packXKK op x kk).extractLsb' 8 4 = regBits x := by
    unfold packXKK
    ext k hk
    interval_cases k <;> simp
  exact congrArg BitVec.toFin hbits

@[simp] theorem fieldKK_packXKK : fieldKK (packXKK op x kk) = kk := by
  unfold fieldKK packXKK
  ext k hk
  interval_cases k <;> simp

@[simp] theorem fieldOp_packXYN : fieldOp (packXYN op x y n) = op := by
  unfold fieldOp packXYN
  ext k hk
  interval_cases k <;> simp

@[simp] theorem fieldX_packXYN : fieldX (packXYN op x y n) = x := by
  have hbits : (packXYN op x y n).extractLsb' 8 4 = regBits x := by
    unfold packXYN
    ext k hk
    interval_cases k <;> simp
  exact congrArg BitVec.toFin hbits

@[simp] theorem fieldY_packXYN : fieldY (packXYN op x y n) = y := by
  have hbits : (packXYN op x y n).extractLsb' 4 4 = regBits y := by
    unfold packXYN
    ext k hk
    interval_cases k <;> simp
  exact congrArg BitVec.toFin hbits

@[simp] theorem fieldN_packXYN : fieldN (packXYN op x y n) = n := by
  unfold fieldN packXYN
  ext k hk
  interval_cases k <;> simp

end

/-! ### The word packed from its fields -/

section
variable {w : Word} {op : BitVec 4}

theorem packNNN_of_fields (hop : fieldOp w = op) : packNNN op (fieldNNN w) = w := by
  subst hop
  unfold packNNN fieldOp fieldNNN
  ext k hk
  interval_cases k <;> simp

theorem packXKK_of_fields {kk : Byte} (hop : fieldOp w = op) (hkk : fieldKK w = kk) : packXKK op (fieldX w) kk = w := by
  have hx : regBits (fieldX w) = w.extractLsb' 8 4 := rfl
  subst hop hkk
  rw [packXKK, hx, fieldOp, fieldKK]
  ext k hk
  interval_cases k <;> simp

theorem packXYN_of_fields {n : BitVec 4} (hop : fieldOp w = op) (hn : fieldN w = n) :
    packXYN op (fieldX w) (fieldY w) n = w := by
  have hx : regBits (fieldX w) = w.extractLsb' 8 4 := rfl
  have hy : regBits (fieldY w) = w.extractLsb' 4 4 := rfl
  subst hop hn
  rw [packXYN, hx, hy, fieldOp, fieldN]
  ext k hk
  interval_cases k <;> simp

end

@[simp] theorem wordOfBytes_highByte_lowByte (w : Word) : wordOfBytes (highByte w) (lowByte w) = w := by
  unfold wordOfBytes highByte lowByte
  ext k hk
  interval_cases k <;> simp

/-! ### The decoder inverts the encoder -/

theorem packNNN_inj {op : BitVec 4} {nnn mmm : BitVec 12} : packNNN op nnn = packNNN op mmm ↔ nnn = mmm :=
  ⟨fun h => by simpa using congrArg fieldNNN h, congrArg _⟩

/-- The targets `JMP0` can name are those whose word is neither `CLS` nor `RET` (R94, R151). -/
theorem jmp0Target_iff {nnn : BitVec 12} :
    jmp0Target nnn = true ↔ packNNN 0x0#4 nnn ≠ 0x00E0#16 ∧ packNNN 0x0#4 nnn ≠ 0x00EE#16 := by
  have hcls : 0x00E0#16 = packNNN 0x0#4 0x0E0#12 := rfl
  have hret : 0x00EE#16 = packNNN 0x0#4 0x0EE#12 := rfl
  simp only [hcls, hret, ne_eq, packNNN_inj, jmp0Target, Bool.and_eq_true, bne_iff_ne]

/-- The fields of the packed word lead the decode procedure (R94) to the instruction's own row. -/
theorem decodeWord_encode {i : Instr} (h : i.wellFormed = true) : decodeWord (encode i) = .ok i := by
  cases i with
  | cls | ret => decide
  | jmp0 nnn => simp [encode, decodeWord, decodeGroup0, jmp0Target_iff.1 h]
  | jmp | call | ldI | jmpV0 | seImm | sneImm | ldImm | addImm | rnd | seReg | sneReg | drw => simp [encode, decodeWord]
  | ldReg | orReg | andReg | xorReg | addReg | subReg | shr | subnReg | shl => simp [encode, decodeWord, decodeGroup8]
  | skp | sknp => simp [encode, decodeWord, decodeGroupE]
  | _ => simp [encode, decodeWord, decodeGroupF]

/-- Settles O54: the two bytes make the word again, and the word decodes to the instruction. -/
theorem decodeOfEncodeIsTheInstruction : Obligations.DecodeOfEncodeIsTheInstruction := by
  intro i rest h
  simp [encodeBytes, decode, decodeWord_encode h]

/-! ### The encoder inverts the decoder -/

/-- What an answer of the decoder for `w` holds, if anything, is well formed and encodes back to `w`. -/
def EncodesBack (w : Word) (r : Except DecodeError Instr) : Prop := ∀ i, r = .ok i → i.wellFormed = true ∧ encode i = w

namespace EncodesBack

variable {w : Word}

theorem ok {i : Instr} (hwf : i.wellFormed = true) (h : encode i = w) : EncodesBack w (.ok i) := fun _ hi => by
  cases hi
  exact ⟨hwf, h⟩

theorem error {e : DecodeError} : EncodesBack w (.error e) := fun _ h => nomatch h

theorem ite {p : Prop} [Decidable p] {a b : Except DecodeError Instr} (ha : p → EncodesBack w a)
    (hb : ¬ p → EncodesBack w b) : EncodesBack w (if p then a else b) := by
  split
  next hp => exact ha hp
  next hp => exact hb hp

/-! One rule per format of R91: the fixed fields of the instruction's word are those of `w`. -/

theorem ofNNN {op : BitVec 4} {i : Instr} (hwf : i.wellFormed = true) (hi : encode i = packNNN op (fieldNNN w))
    (hop : fieldOp w = op) : EncodesBack w (.ok i) := .ok hwf (hi.trans (packNNN_of_fields hop))

theorem ofXKK {op : BitVec 4} {kk : Byte} {i : Instr} (hwf : i.wellFormed = true)
    (hi : encode i = packXKK op (fieldX w) kk) (hkk : fieldKK w = kk) (hop : fieldOp w = op) :
    EncodesBack w (.ok i) := .ok hwf (hi.trans (packXKK_of_fields hop hkk))

theorem ofXYN {op n : BitVec 4} {i : Instr} (hwf : i.wellFormed = true)
    (hi : encode i = packXYN op (fieldX w) (fieldY w) n) (hop : fieldOp w = op) (hn : fieldN w = n) :
    EncodesBack w (.ok i) := .ok hwf (hi.trans (packXYN_of_fields hop hn))

end EncodesBack

section
variable {w : Word}

theorem decodeGroup0_encodesBack (hop : fieldOp w = 0x0#4) : EncodesBack w (.ok (decodeGroup0 w)) := by
  have hword : packNNN 0x0#4 (fieldNNN w) = w := packNNN_of_fields hop
  rw [decodeGroup0]
  split_ifs with hcls hret
  · exact .ok rfl hcls.symm
  · exact .ok rfl hret.symm
  · exact .ok (jmp0Target_iff.2 (by rw [hword]; exact ⟨hcls, hret⟩)) hword

theorem decodeGroup8_encodesBack (hop : fieldOp w = 0x8#4) : EncodesBack w (decodeGroup8 w) := by
  unfold decodeGroup8
  repeat refine .ite (.ofXYN rfl rfl hop) fun _ => ?_
  exact .error

theorem decodeGroupE_encodesBack (hop : fieldOp w = 0xE#4) : EncodesBack w (decodeGroupE w) := by
  unfold decodeGroupE
  repeat refine .ite (.ofXKK rfl rfl · hop) fun _ => ?_
  exact .error

theorem decodeGroupF_encodesBack (hop : fieldOp w = 0xF#4) : EncodesBack w (decodeGroupF w) := by
  unfold decodeGroupF
  repeat refine .ite (.ofXKK rfl rfl · hop) fun _ => ?_
  exact .error

/-- The decode procedure of R94, one line per high nibble. -/
theorem decodeWord_encodesBack (w : Word) : EncodesBack w (decodeWord w) := by
  unfold decodeWord
  refine .ite decodeGroup0_encodesBack fun h0 => ?_
  refine .ite (.ofNNN rfl rfl) fun h1 => ?_
  refine .ite (.ofNNN rfl rfl) fun h2 => ?_
  refine .ite (.ofXKK rfl rfl rfl) fun h3 => ?_
  refine .ite (.ofXKK rfl rfl rfl) fun h4 => ?_
  refine .ite (fun hop => .ite (.ofXYN rfl rfl hop) fun _ => .error) fun h5 => ?_
  refine .ite (.ofXKK rfl rfl rfl) fun h6 => ?_
  refine .ite (.ofXKK rfl rfl rfl) fun h7 => ?_
  refine .ite decodeGroup8_encodesBack fun h8 => ?_
  refine .ite (fun hop => .ite (.ofXYN rfl rfl hop) fun _ => .error) fun h9 => ?_
  refine .ite (.ofNNN rfl rfl) fun hA => ?_
  refine .ite (.ofNNN rfl rfl) fun hB => ?_
  refine .ite (.ofXKK rfl rfl rfl) fun hC => ?_
  refine .ite (fun hop => .ofXYN rfl rfl hop rfl) fun hD => ?_
  refine .ite decodeGroupE_encodesBack fun hE => ?_
  exact decodeGroupF_encodesBack (by bv_omega)

end

/-- Settles O55: every answer of the decode procedure encodes back, group by group. -/
theorem encodeOfDecodeIsTheWord : Obligations.EncodeOfDecodeIsTheWord := decodeWord_encodesBack

/-! ### The illegal set (R97) -/

/-- A test of a decode procedure that answers an instruction is passed over when the answer is an error. -/
theorem ite_ok_eq_error {p : Prop} [Decidable p] {i : Instr} {e : DecodeError} {r : Except DecodeError Instr} :
    (if p then .ok i else r) = .error e ↔ ¬ p ∧ r = .error e := by
  by_cases hp : p <;> simp [hp]

section
variable {w : Word}

theorem decodeGroup8_illegal_iff : decodeGroup8 w = .error (.illegalOpcode w) ↔
    fieldN w ∈ [0x8#4, 0x9#4, 0xA#4, 0xB#4, 0xC#4, 0xD#4, 0xF#4] := by
  have hlisted : ∀ n : BitVec 4,
      (n ≠ 0x0#4 ∧ n ≠ 0x1#4 ∧ n ≠ 0x2#4 ∧ n ≠ 0x3#4 ∧ n ≠ 0x4#4 ∧ n ≠ 0x5#4 ∧ n ≠ 0x6#4 ∧ n ≠ 0x7#4 ∧ n ≠ 0xE#4) ↔
        n ∈ [0x8#4, 0x9#4, 0xA#4, 0xB#4, 0xC#4, 0xD#4, 0xF#4] := by decide
  simpa only [decodeGroup8, ite_ok_eq_error, and_true, ne_eq] using hlisted (fieldN w)

theorem decodeGroupE_illegal_iff : decodeGroupE w = .error (.illegalOpcode w) ↔ fieldKK w ∉ [0x9E#8, 0xA1#8] := by
  simp [decodeGroupE, ite_ok_eq_error]

theorem decodeGroupF_illegal_iff : decodeGroupF w = .error (.illegalOpcode w) ↔
    fieldKK w ∉ [0x07#8, 0x0A#8, 0x15#8, 0x18#8, 0x1E#8, 0x29#8, 0x33#8, 0x55#8, 0x65#8, 0x75#8, 0x85#8] := by
  simp [decodeGroupF, ite_ok_eq_error]

end

/-- Settles O57, by the high nibble: groups 8, E and F by their own lemmas, the other groups at once. -/
theorem illegalSetIsComplete : Obligations.IllegalSetIsComplete := by
  intro w
  obtain ⟨op, hop⟩ : ∃ op : Fin 16, fieldOp w = BitVec.ofFin op := ⟨_, rfl⟩
  fin_cases op <;>
    simp [decodeWord, hop, decodeGroup8_illegal_iff, decodeGroupE_illegal_iff, decodeGroupF_illegal_iff]

/-! ### The opcode table: the first row a word matches (R96) -/

theorem rowMatches_iff {w : Word} {row : Word × Word} : rowMatches w row = true ↔ w &&& row.1 = row.2 := beq_iff_eq

section
open Laws

/-- Every instruction's word matches the row the instruction stands in. -/
theorem encodingRow : ∀ i : Instr, EncodingRow.Statement i
  | .cls => EncodingRow.cls | .ret => EncodingRow.ret
  | .jmp0 nnn => EncodingRow.jmp0 nnn | .jmp nnn => EncodingRow.jmp nnn | .call nnn => EncodingRow.call nnn
  | .ldI nnn => EncodingRow.ldI nnn | .jmpV0 nnn => EncodingRow.jmpV0 nnn
  | .seImm x kk => EncodingRow.seImm x kk | .sneImm x kk => EncodingRow.sneImm x kk
  | .ldImm x kk => EncodingRow.ldImm x kk | .addImm x kk => EncodingRow.addImm x kk | .rnd x kk => EncodingRow.rnd x kk
  | .seReg x y => EncodingRow.seReg x y | .sneReg x y => EncodingRow.sneReg x y | .drw x y n => EncodingRow.drw x y n
  | .ldReg x y => EncodingRow.ldReg x y | .orReg x y => EncodingRow.orReg x y | .andReg x y => EncodingRow.andReg x y
  | .xorReg x y => EncodingRow.xorReg x y | .addReg x y => EncodingRow.addReg x y | .subReg x y => EncodingRow.subReg x y
  | .shr x y => EncodingRow.shr x y | .subnReg x y => EncodingRow.subnReg x y | .shl x y => EncodingRow.shl x y
  | .skp x => EncodingRow.skp x | .sknp x => EncodingRow.sknp x
  | .ldVxDt x => EncodingRow.ldVxDt x | .ldVxKey x => EncodingRow.ldVxKey x | .ldDtVx x => EncodingRow.ldDtVx x
  | .ldStVx x => EncodingRow.ldStVx x | .addI x => EncodingRow.addI x | .ldFont x => EncodingRow.ldFont x
  | .ldBcd x => EncodingRow.ldBcd x | .storeRegs x => EncodingRow.storeRegs x | .loadRegs x => EncodingRow.loadRegs x
  | .saveFlags x => EncodingRow.saveFlags x | .restoreFlags x => EncodingRow.restoreFlags x

end

/-- The two rows fix some bit differently, so no word matches both. -/
def RowsDisjoint (r r' : Word × Word) : Prop := r.2 &&& r'.1 ≠ r'.2 &&& r.1

theorem RowsDisjoint.not_both {w : Word} {r r' : Word × Word} (h : RowsDisjoint r r') (hr : rowMatches w r = true)
    (hr' : rowMatches w r' = true) : False := by
  rw [rowMatches_iff] at hr hr'
  exact h (by rw [← hr, ← hr', BitVec.and_assoc, BitVec.and_assoc, BitVec.and_comm r.1])

/-- Only rows 1 and 2 share a word with a later row (row 3: decision D3). -/
theorem opcodeRows_disjoint : opcodeRows.Pairwise fun r r' =>
    RowsDisjoint r r' ∨ r = (0xFFFF#16, 0x00E0#16) ∨ r = (0xFFFF#16, 0x00EE#16) := by
  unfold RowsDisjoint
  decide

theorem rowMatches_fullMask {w v : Word} : rowMatches w (0xFFFF#16, v) = true ↔ w = v := by
  rw [rowMatches_iff]
  exact iff_of_eq (congrArg (· = v) BitVec.and_allOnes)

/-- Every row before the instruction's own is disjoint from it, or fixes the whole word as `CLS` or `RET`. -/
theorem selectedRow_of_decodeWord {w : Word} {i : Instr} (h : decodeWord w = .ok i) : selectedRow w = some (rowOf i) := by
  by_cases hcls : w = 0x00E0#16
  · subst hcls; cases h; decide
  by_cases hret : w = 0x00EE#16
  · subst hret; cases h; decide
  obtain ⟨-, rfl⟩ := decodeWord_encodesBack w i h
  obtain ⟨row, hget, hmatch⟩ := Option.map_eq_some_iff.1 (encodingRow i)
  obtain ⟨hlt, rfl⟩ := List.getElem?_eq_some_iff.1 hget
  have hfirst : opcodeRows.findIdx? (rowMatches (encode i)) = some (rowOf i - 1) := by
    refine List.findIdx?_eq_some_iff_getElem.2 ⟨hlt, hmatch, fun j hj hmatchj => ?_⟩
    obtain hdisj | hrow | hrow := List.pairwise_iff_getElem.1 opcodeRows_disjoint j _ (hj.trans hlt) hlt hj
    · exact hdisj.not_both hmatchj hmatch
    · exact hcls (rowMatches_fullMask.1 (hrow ▸ hmatchj))
    · exact hret (rowMatches_fullMask.1 (hrow ▸ hmatchj))
  have hpos : 0 < rowOf i := by cases i <;> exact Nat.succ_pos _
  rw [selectedRow, hfirst, Option.map_some, Nat.sub_add_cancel hpos]

/-! ### No row matches an illegal word -/

/-- Every row fixes `op`, and where its group is selected by `n` or by `fn` (R94) that field too. -/
theorem opcodeRows_masks : ∀ row ∈ opcodeRows, fieldOp row.1 = 0xF#4 ∧
    (fieldOp row.2 ∈ [0x5#4, 0x8#4, 0x9#4] → fieldN row.1 = 0xF#4) ∧
    (fieldOp row.2 ∈ [0xE#4, 0xF#4] → fieldKK row.1 = 0xFF#8) := by
  rw [← List.forall_iff_forall_mem]
  decide

/-- The digits of every row, its operands 0, are an instruction. -/
theorem opcodeRows_decode : ∀ row ∈ opcodeRows, (decodeWord row.2).isOk = true := List.all_eq_true.1 (by decide)

section
variable {w : Word} {row : Word × Word}

theorem fieldOp_and (w m : Word) : fieldOp (w &&& m) = fieldOp w &&& fieldOp m := BitVec.extractLsb'_and

theorem fieldN_and (w m : Word) : fieldN (w &&& m) = fieldN w &&& fieldN m := BitVec.extractLsb'_and

theorem fieldKK_and (w m : Word) : fieldKK (w &&& m) = fieldKK w &&& fieldKK m := BitVec.extractLsb'_and

/-- A word agrees with a row it matches in every field the illegal set speaks of (R97). -/
theorem fields_of_rowMatches (hrow : row ∈ opcodeRows) (hmatch : rowMatches w row = true) :
    fieldOp row.2 = fieldOp w ∧ (fieldOp w ∈ [0x5#4, 0x8#4, 0x9#4] → fieldN row.2 = fieldN w) ∧
      (fieldOp w ∈ [0xE#4, 0xF#4] → fieldKK row.2 = fieldKK w) := by
  obtain ⟨hop, hn, hkk⟩ := opcodeRows_masks row hrow
  rw [← rowMatches_iff.1 hmatch] at hn hkk ⊢
  have hsame : fieldOp (w &&& row.1) = fieldOp w := by
    rw [fieldOp_and, hop]
    exact BitVec.and_allOnes
  rw [hsame] at hn hkk
  refine ⟨hsame, fun h => ?_, fun h => ?_⟩
  · rw [fieldN_and, hn h]
    exact BitVec.and_allOnes
  · rw [fieldKK_and, hkk h]
    exact BitVec.and_allOnes

/-- A row that an illegal word matched would have illegal digits itself. -/
theorem rowMatches_of_illegal (h : decodeWord w = .error (.illegalOpcode w)) (hrow : row ∈ opcodeRows) :
    rowMatches w row = false := by
  by_contra hmatch
  obtain ⟨hop, hn, hkk⟩ := fields_of_rowMatches hrow (Bool.of_not_eq_false hmatch)
  have hrowIllegal : decodeWord row.2 = .error (.illegalOpcode row.2) := by
    rw [illegalSetIsComplete, hop]
    obtain ⟨hw, hne⟩ | ⟨hw, hmem⟩ | ⟨hw, hmem⟩ | ⟨hw, hmem⟩ := (illegalSetIsComplete w).1 h
    · exact .inl ⟨hw, by rwa [hn (by simpa using hw.imp_right .inr)]⟩
    · exact .inr (.inl ⟨hw, by rwa [hn (by simp [hw])]⟩)
    · exact .inr (.inr (.inl ⟨hw, by rwa [hkk (by simp [hw])]⟩))
    · exact .inr (.inr (.inr ⟨hw, by rwa [hkk (by simp [hw])]⟩))
  have hok := opcodeRows_decode row hrow
  rw [hrowIllegal] at hok
  cases hok

theorem selectedRow_of_illegal (h : decodeWord w = .error (.illegalOpcode w)) : selectedRow w = none := by
  have hnone : opcodeRows.findIdx? (rowMatches w) = none :=
    List.findIdx?_eq_none_iff.2 fun _ hrow => rowMatches_of_illegal h hrow
  rw [selectedRow, hnone, Option.map_none]

end

/-- Settles O56: the row of the decoded instruction is the first that matches, and an illegal word matches no row. -/
theorem decodeSelectsTheTableRow : Obligations.DecodeSelectsTheTableRow := by
  intro w
  refine ⟨fun i => selectedRow_of_decodeWord, fun e he => ?_⟩
  obtain rfl := decodeWord_onlyIllegalOpcode w e he
  exact ⟨rfl, selectedRow_of_illegal he⟩

/-- Settles O58, by evaluation. -/
theorem sampleWordsDecode : Obligations.SampleWordsDecode := by
  unfold Obligations.SampleWordsDecode
  decide

end Sys2Proof.Machine

/-! ## Execution cycle: the ways a step goes, and what `Execute` depends on (R120 to R133, R252, R259)

What a step answers for each way its phases go, as equations; from them the obligations about the step. Then that
`Execute` of an instruction that asks the environment nothing only passes the prescribed answers on (R132). -/

namespace Sys2Proof.Machine

/-! ### What a step answers -/

theorem step_of_prepare_done {s t : State} (h : s.prepare = .done t) : step s = .next t := by
  simp only [step, h]

theorem step_of_prepare_execute {s t : State} {i : Instr} (h : s.prepare = .execute i t) :
    step s = endOutcome (exec i t) := by
  simp only [step, h]

theorem State.prepare_of_halted {s : State} {reason : HaltReason} (h : s.run = .halted reason) : s.prepare = .done s := by
  simp only [State.prepare, h]

theorem State.prepare_of_quit {s : State} (hrun : s.run = .running) (hwait : s.wait = none) (hpoll : s.inputs.poll = .quit) :
    s.prepare = .done s.quit := by
  simp only [State.prepare, hrun, hwait, hpoll]

theorem State.prepare_of_ready {s : State} (h : s.ReadyToFetch) : s.prepare = s.fetchDecode := by
  obtain ⟨hrun, hwait, hpoll⟩ := h
  simp only [State.prepare, hrun, hwait, hpoll]

/-- A fetch with its second byte outside memory reports the lowest of its addresses that is outside (R67, R252). -/
theorem State.fetch_of_outOfRange {s : State} (h : s.params.memSize ≤ s.pc.toNat + 1) :
    s.fetch = .error (max s.pc.toNat s.params.memSize) := by
  obtain ⟨hlt, -⟩ | ⟨-, herr⟩ := Memory.readWord_cases (size := s.params.memSize) s.mem s.pc.toNat
  · omega
  · exact herr

theorem decodeWord_of_decode {hi lo : Byte} {i : Instr} (h : decode [hi, lo] = .ok (i, [])) :
    decodeWord (wordOfBytes hi lo) = .ok i := by
  cases hw : decodeWord (wordOfBytes hi lo) with
  | ok j => simpa [decode, hw] using h
  | error e => simp [decode, hw] at h

/-- The step of a decodable opcode is `exec` of its instruction at the post-fetch PC, with the end of the step (R123 to R125). -/
theorem step_of_decode {s : State} {hi lo : Byte} {i : Instr} (hready : s.ReadyToFetch) (hcode : s.HasCode hi lo)
    (hdecode : decode [hi, lo] = .ok (i, [])) : step s = endOutcome (exec i s.advancePc) := by
  refine step_of_prepare_execute ?_
  rw [State.prepare_of_ready hready]
  simp only [State.fetchDecode, State.fetch_of_hasCode hcode, decodeWord_of_decode hdecode]

/-! ### The end of a step -/

theorem State.endStep_of_completed {s : State} (hrun : s.run = .running) (hwait : s.wait = none) :
    s.endStep = s.timerPhase.nextInputs := by
  simp only [State.endStep, hrun, hwait]

theorem State.endStep_of_blocked {s : State} {w : KeyWait} (hrun : s.run = .running) (hwait : s.wait = some w) :
    s.endStep = s.nextInputs := by
  simp only [State.endStep, hrun, hwait]

theorem State.endStep_of_halted {s : State} {reason : HaltReason} (hrun : s.run = .halted reason) : s.endStep = s := by
  simp only [State.endStep, hrun]

theorem State.timerPhase_perCycle {s : State} (h : s.params.timerMode = .perCycle) :
    s.timerPhase = s.setDt (BitVec.ofNat 8 (s.dt.toNat - 1)) := by
  simp only [State.timerPhase, h]

theorem State.timerPhase_tick60 {s : State} (h : s.params.timerMode = .tick60) :
    s.timerPhase = (s.setDt (BitVec.ofNat 8 (s.dt.toNat - s.inputs.ticks))).setSt
      (BitVec.ofNat 8 (s.st.toNat - s.inputs.ticks)) := by
  simp only [State.timerPhase, h]

/-- A delay timer at 0 stays there, in either mode (R266, R268). -/
theorem State.timerPhase_dt_zero {s : State} (h : s.dt = 0) : s.timerPhase.dt = 0 := by
  cases hmode : s.params.timerMode with
  | perCycle => simp [State.timerPhase_perCycle hmode, h]
  | tick60 => simp [State.timerPhase_tick60 hmode, h]

/-- A sound timer at 0 stays there, in either mode (R267, R268). -/
theorem State.timerPhase_st_zero {s : State} (h : s.st = 0) : s.timerPhase.st = 0 := by
  cases hmode : s.params.timerMode with
  | perCycle => simp [State.timerPhase_perCycle hmode, h]
  | tick60 => simp [State.timerPhase_tick60 hmode, h]

/-! ### Frame rules of the phases -/

section
variable {c : List Part} {s t : State}

theorem Frame.quit (h : Frame c s t) (hw : .run ∈ c) : Frame c s t.quit := fun p hp => by
  cases p with
  | run => exact absurd hw hp
  | _ => exact h _ hp

theorem Frame.nextInputs (h : Frame c s t) (hw : .inputs ∈ c) : Frame c s t.nextInputs := fun p hp => by
  cases p with
  | inputs => exact absurd hw hp
  | _ => exact h _ hp

theorem Frame.timerPhase (h : Frame c s t) (hdt : .delay ∈ c) (hst : .sound ∈ c) : Frame c s t.timerPhase := by
  rw [State.timerPhase_eq]
  change Frame c s ((t.setDt t.timerPhase.dt).setSt t.timerPhase.st)
  exact (h.setDt hdt).setSt hst

end

/-! ### The obligations about the step -/

/-- Settles O37: the fetch reports the lowest address outside memory, and the step is its halt. -/
theorem fetchOutOfRangeHalts : Obligations.FetchOutOfRangeHalts := by
  intro s hready hrange
  have hprepare := State.prepare_of_ready hready
  simp only [State.fetchDecode, State.fetch_of_outOfRange hrange] at hprepare
  exact ⟨_, step_of_prepare_done hprepare, rfl, rfl⟩

/-- Settles O36: the step is `exec` with the end of the step, by what `exec` answers. -/
theorem stepRunsTheDecodedInstruction : Obligations.StepRunsTheDecodedInstruction := by
  intro s hi lo i hready hcode hdecode
  have hstep := step_of_decode hready hcode hdecode
  have ofNext : ∀ {t}, exec i s.advancePc = .next t → step s = .next t.endStep := fun h => by rw [hstep, h, endOutcome]
  refine ⟨rfl, Frame.refl.setPc (by simp), fun t h hrun hwait => ?_, fun t w h hrun hwait => ?_, fun t reason h hrun => ?_,
    fun r h => by rw [hstep, h, endOutcome]⟩
  · rw [ofNext h, State.endStep_of_completed hrun hwait]
  · rw [ofNext h, State.endStep_of_blocked hrun hwait]
  · rw [ofNext h, State.endStep_of_halted hrun]

/-- Settles O40: the step ends in `quit`. -/
theorem quitHaltsAndKeepsState : Obligations.QuitHaltsAndKeepsState := by
  intro s hrun hwait hpoll
  exact ⟨s.quit, step_of_prepare_done (State.prepare_of_quit hrun hwait hpoll), rfl, rfl, Frame.refl.quit (by simp)⟩

/-- Settles O41: the first phase ends the step. -/
theorem haltedStepChangesNothing : Obligations.HaltedStepChangesNothing := fun _ _ h =>
  step_of_prepare_done (State.prepare_of_halted h)

/-- Settles O43: the jump undoes the fetch's advance, so the step is the timer phase and the end of the inputs. -/
theorem selfJumpIsAFixedPoint : Obligations.SelfJumpIsAFixedPoint := by
  intro s hi lo nnn hready hcode hdecode hpc
  have htarget : zextNNN nnn = s.pc := BitVec.eq_of_toNat_eq ((zextNNN_toNat nnn).trans hpc)
  have hexec : exec (.jmp nnn) s.advancePc = .next s := by
    rw [exec, execJmp, htarget]
    rfl
  have ⟨hrun, hwait, _⟩ := hready
  refine ⟨s.timerPhase.nextInputs, ?_, (Frame.refl.timerPhase (by simp) (by simp)).nextInputs (by simp),
    State.timerPhase_dt_zero, State.timerPhase_st_zero⟩
  rw [step_of_decode hready hcode hdecode, hexec, endOutcome, State.endStep_of_completed hrun hwait]

/-! ### Other prescribed answers (R132) -/

section
variable (s : State) (script : List Inputs)

/-- The state with other answers prescribed for the coming steps. -/
def State.prescribe : State := { s with script := script }

@[simp] theorem State.prescribe_mem : (s.prescribe script).mem = s.mem := rfl
@[simp] theorem State.prescribe_params : (s.prescribe script).params = s.params := rfl
@[simp] theorem State.prescribe_pc : (s.prescribe script).pc = s.pc := rfl
@[simp] theorem State.prescribe_effAddr (k : Nat) : (s.prescribe script).effAddr k = s.effAddr k := rfl

theorem State.push_prescribe (w : Word) : (s.prescribe script).push w = (s.push w).map (·.prescribe script) := by
  by_cases h : s.sp.val < 16 <;> simp [State.push, State.prescribe, h]

theorem State.pop_prescribe : (s.prescribe script).pop = s.pop.map fun p => (p.1, p.2.prescribe script) := by
  by_cases h : 0 < s.sp.val <;> simp [State.pop, State.prescribe, h]

theorem State.storeBytes_prescribe (i : Instr) (a : Nat) (bs : List Byte) :
    (s.prescribe script).storeBytes i a bs = (s.storeBytes i a bs).prescribe script := by
  simp only [State.storeBytes, State.prescribe_params, State.prescribe_mem]
  cases Memory.writeBytes s.params.memSize s.mem a bs <;> rfl

/-- An instruction that asks the environment nothing passes the prescribed answers on, also through a fault: what it leaves
(R257) depends on the clock and not on them (log entry 3). -/
theorem exec_prescribe {i : Instr} (h : readsInputs i = false) :
    exec i (s.prescribe script) = withScript script (exec i s) := by
  cases i with
  | rnd | skp | sknp | ldVxKey => cases h
  | ret =>
    simp only [exec, execRet, State.pop_prescribe]
    cases s.pop <;> rfl
  | call nnn =>
    simp only [exec, execCall, State.prescribe_pc, State.push_prescribe]
    cases s.push s.pc <;> rfl
  | drw x y n =>
    simp only [exec, execDrw, State.prescribe_params, State.prescribe_mem, State.prescribe_effAddr]
    cases Memory.readBytes s.params.memSize s.mem (s.effAddr 0) n.toNat <;> rfl
  | loadRegs x =>
    simp only [exec, execLoadRegs, State.prescribe_params, State.prescribe_mem, State.prescribe_effAddr]
    cases Memory.readBytes s.params.memSize s.mem (s.effAddr 0) (rangeCount x) <;> rfl
  | ldBcd x => exact congrArg Host.Outcome.next (s.storeBytes_prescribe script ..)
  | storeRegs x => exact congrArg Host.Outcome.next (s.storeBytes_prescribe script ..)
  | _ => rfl

end

/-- Settles O53: the statement's record update is `prescribe`. -/
theorem otherInstructionsIgnoreInputs : Obligations.OtherInstructionsIgnoreInputs := fun _ s script h =>
  exec_prescribe s script h

end Sys2Proof.Machine

/-! ## Control transfer: jumps, skips, `CALL` and `RET` (R150 to R158)

What a jump and a skip leave, each said once for every instruction of its kind; `CALL` below a full stack and `RET` above an
empty one as equations. The two obligations about `CALL` and `RET` then chain into the third. -/

namespace Sys2Proof.Machine

/-! ### Frames: chaining, and shortening the list by a piece of state that has come back to its value -/

theorem Part.same.trans {p : Part} {s t u : State} (hst : p.same s t) (htu : p.same t u) : p.same s u := by
  cases p with
  | regs | memory => exact fun a => (htu a).trans (hst a)
  | callStack | run | inputs => exact ⟨htu.1.trans hst.1, htu.2.trans hst.2⟩
  | _ => exact Eq.trans htu hst

theorem Frame.trans {c : List Part} {s t u : State} (hst : Frame c s t) (htu : Frame c t u) : Frame c s u :=
  fun p hp => (hst p hp).trans (htu p hp)

theorem Frame.of_cons {p : Part} {c : List Part} {s t : State} (h : Frame (p :: c) s t) (hp : p.same s t) : Frame c s t :=
  fun q hq => by
    by_cases hqp : q = p
    · exact hqp ▸ hp
    · exact h q (by simp [hqp, hq])

/-! ### Jumps (R151, R152, R158) -/

/-- An instruction that only sets `pc`, to a target given by its value. -/
theorem exec_jump_spec {i : Instr} {s : State} {target : Word} {n : Nat} (hexec : exec i s = .next (s.setPc target))
    (hn : target.toNat = n) : ∃ t, exec i s = .next t ∧ t.pc.toNat = n ∧ Frame [.pc] s t :=
  ⟨_, hexec, hn, Frame.refl.setPc (List.mem_singleton_self _)⟩

/-- The sum of a byte and a 12-bit address stays below 2^16, so the 16-bit sum is the sum (D33). -/
theorem jumpV0Target_toNat (v0 : Byte) (nnn : BitVec 12) : (jumpV0Target v0 nnn).toNat = v0.toNat + nnn.toNat := by
  have hmod : (jumpV0Target v0 nnn).toNat = (v0.toNat + nnn.toNat) % 65536 := by
    simp [jumpV0Target, zextByte, zextNNN]
  omega

/-- Settles O9: both are a jump to the zero-extended `nnn`. -/
theorem jumpsTakeTheirTarget : Obligations.JumpsTakeTheirTarget := fun _ nnn =>
  ⟨exec_jump_spec rfl (zextNNN_toNat nnn), exec_jump_spec rfl (zextNNN_toNat nnn)⟩

/-- Settles O10: a jump to a sum that does not wrap. -/
theorem jmpV0AddsWithoutMask : Obligations.JmpV0AddsWithoutMask := fun s nnn =>
  exec_jump_spec rfl (jumpV0Target_toNat (s.reg 0) nnn)

/-! ### Skips (R154 to R157) -/

/-- An instruction that skips on a test which decides `p`. -/
theorem exec_skip_spec {i : Instr} {s : State} {test : Bool} {p : Prop} [Decidable p]
    (hexec : exec i s = .next (s.skipIf test)) (htest : test = true ↔ p) :
    ∃ t, exec i s = .next t ∧ t.pc = (if p then s.pc + 2 else s.pc) ∧ Frame [.pc] s t :=
  ⟨_, hexec, (s.skipIf_pc test).trans (if_congr htest rfl rfl), Frame.refl.setPc (List.mem_singleton_self _)⟩

/-- Settles O11: the tests are `==` and `!=`, which decide the comparisons. -/
theorem comparisonSkips : Obligations.ComparisonSkips := fun _ _ _ _ =>
  ⟨exec_skip_spec rfl beq_iff_eq, exec_skip_spec rfl bne_iff_ne,
    exec_skip_spec rfl beq_iff_eq, exec_skip_spec rfl bne_iff_ne⟩

/-! ### `CALL` and `RET` (R150, R153) -/

theorem exec_call_of_lt {s : State} (nnn : BitVec 12) (h : s.sp.val < 16) : exec (.call nnn) s =
    .next (State.setPc { s with stack := s.stack.set s.sp.val s.pc, sp := ⟨s.sp.val + 1, by omega⟩ } (zextNNN nnn)) := by
  obtain ⟨hfull, -⟩ | ⟨_, hpush⟩ := s.push_cases s.pc
  · omega
  · simp only [exec, execCall, hpush]

theorem exec_ret_of_succ {s : State} {j : Fin 16} (h : s.sp.val = j.val + 1) : exec .ret s =
    .next (State.setPc { s with sp := j.castSucc } s.stack[j.val]) := by
  obtain ⟨hempty, -⟩ | ⟨_, hpop⟩ := s.pop_cases
  · omega
  · simp only [exec, execRet, hpop, h, Nat.add_sub_cancel]
    rfl

/-- Settles O12: the push writes the entry at SP, and no other. -/
theorem callPushesPostFetchPc : Obligations.CallPushesPostFetchPc := by
  intro s nnn h
  refine ⟨_, exec_call_of_lt nnn h, rfl, zextNNN_toNat nnn, fun j => ?_,
    (Frame.refl.setCallStack (by simp)).setPc (by simp)⟩
  simp [Vector.getElem_set, eq_comm]

/-- Settles O14: the pop leaves the stack's entries and gives the one below SP. -/
theorem retPopsIntoPc : Obligations.RetPopsIntoPc := fun _ _ h =>
  ⟨_, exec_ret_of_succ h, rfl, rfl, rfl, (Frame.refl.setCallStack (by simp)).setPc (by simp)⟩

/-- Settles O16: `RET` pops the entry that `CALL` pushed, the entry at the SP before the call. -/
theorem callThenRetReturns : Obligations.CallThenRetReturns := by
  intro s nnn h
  obtain ⟨t, hcall, htsp, -, htstack, hst⟩ := callPushesPostFetchPc s nnn h
  obtain ⟨u, hret, husp, hupc, hustack, htu⟩ := retPopsIntoPc t ⟨s.sp.val, h⟩ htsp
  have hpc : u.pc = s.pc := by rw [hupc, htstack ⟨s.sp.val, h⟩, if_pos rfl]
  refine ⟨t, u, hcall, hret, hpc, Fin.ext husp, fun j hj => ?_, (hst.trans htu).of_cons hpc⟩
  simp only [hustack, htstack j, if_neg hj.ne]

end Sys2Proof.Machine

/-! ## Load, arithmetic, logic and shifts: the value an instruction leaves in `V[x]` and in VF (R170 to R182)

The flags by their values, and what one and two register writes leave. An addition or a subtraction writes `V[x]` and then
VF, a shift VF and then `V[x]`: where the second write, or what it is computed from, meets the first, the aliasing is a case
of its own (R127, D2). -/

namespace Sys2Proof.Machine

/-! ### Flags and 8-bit results by their values -/

theorem flagByte_decide (p : Prop) [Decidable p] : flagByte (decide p) = if p then 1 else 0 := by
  simp only [flagByte, decide_eq_true_eq]

theorem carryFlag_eq (a b : Byte) : carryFlag a b = if a.toNat + b.toNat > 255 then 1 else 0 := flagByte_decide _

theorem notBorrowFlag_eq (a b : Byte) : notBorrowFlag a b = if a.toNat ≥ b.toNat then 1 else 0 := flagByte_decide _

theorem lowBitFlag_toNat (a : Byte) : (lowBitFlag a).toNat = a.toNat % 2 := by
  simp [lowBitFlag, Nat.and_one_is_mod]

theorem highBitFlag_toNat (a : Byte) : (highBitFlag a).toNat = a.toNat / 128 := by
  simp [highBitFlag, Nat.shiftRight_eq_div_pow]

/-- The difference modulo 256, as a sum that stays a natural number. -/
theorem byte_sub_toNat (a b : Byte) : (a - b).toNat = (a.toNat + 256 - b.toNat) % 256 := by
  rw [BitVec.toNat_sub]
  omega

theorem byte_shiftRight_one_toNat (a : Byte) : (a >>> 1).toNat = a.toNat / 2 := by
  simp [Nat.shiftRight_eq_div_pow]

theorem byte_shiftLeft_one_toNat (a : Byte) : (a <<< 1).toNat = a.toNat * 2 % 256 := by
  simp [Nat.shiftLeft_eq]

/-- The bit a right shift puts in VF is lost when VF itself is then shifted. -/
theorem lowBitFlag_shiftRight_one (a : Byte) : lowBitFlag a >>> 1 = 0 := by
  refine BitVec.eq_of_toNat_eq ?_
  rw [byte_shiftRight_one_toNat, lowBitFlag_toNat]
  exact Nat.div_eq_of_lt (Nat.mod_lt _ two_pos)

/-- The bit a left shift puts in VF moves up one place when VF itself is then shifted. -/
theorem highBitFlag_shiftLeft_one_toNat (a : Byte) : (highBitFlag a <<< 1).toNat = 2 * (a.toNat / 128) := by
  rw [byte_shiftLeft_one_toNat, highBitFlag_toNat]
  omega

/-! ### One and two register writes -/

section
variable (s : State) {x y : Reg} {b c : Byte} {l : List Reg}

/-- A register write keeps every other register and every other piece of state. -/
theorem State.setReg_keeps (hx : x ∈ l) : RegsKept l s (s.setReg x b) ∧ Frame [.regs] s (s.setReg x b) :=
  ⟨RegsKept.setReg (fun _ _ => rfl) hx, Frame.refl.setReg (List.mem_singleton_self _)⟩

theorem State.setReg_setReg_keeps (hx : x ∈ l) (hy : y ∈ l) :
    RegsKept l s ((s.setReg x b).setReg y c) ∧ Frame [.regs] s ((s.setReg x b).setReg y c) := by
  obtain ⟨hregs, hframe⟩ := s.setReg_keeps (b := b) hx
  exact ⟨hregs.setReg hy, hframe.setReg (List.mem_singleton_self _)⟩

/-- The first of two writes stands when the second is to another register. -/
theorem State.setReg_setReg_reg_of_ne (h : x ≠ y) : ((s.setReg x b).setReg y c).reg x = b := by
  rw [State.setReg_reg_of_ne _ _ _ _ h, State.setReg_reg_self]

end

/-! ### One write: loads, logic and the addition of an immediate (R170 to R175) -/

/-- Settles O1: the one write is of `kk`. -/
theorem ldImmWritesVx : Obligations.LdImmWritesVx := fun s x kk =>
  ⟨_, rfl, s.setReg_reg_self x kk, s.setReg_keeps (by simp)⟩

/-- Settles O2: the one write is of the 8-bit sum. -/
theorem addImmWrapsWithoutFlag : Obligations.AddImmWrapsWithoutFlag := fun s x kk =>
  ⟨_, rfl, by rw [State.setReg_reg_self, BitVec.toNat_add], s.setReg_keeps (by simp)⟩

/-- Settles O3: each is one write, of the operation on bytes that goes bit by bit. -/
theorem moveAndLogicWriteVxOnly : Obligations.MoveAndLogicWriteVxOnly := fun s x y =>
  ⟨⟨_, rfl, s.setReg_reg_self x (s.reg y), s.setReg_keeps (by simp)⟩,
    ⟨_, rfl, fun _ _ => by rw [State.setReg_reg_self, BitVec.getLsbD_or], s.setReg_keeps (by simp)⟩,
    ⟨_, rfl, fun _ _ => by rw [State.setReg_reg_self, BitVec.getLsbD_and], s.setReg_keeps (by simp)⟩,
    ⟨_, rfl, fun _ _ => by rw [State.setReg_reg_self, BitVec.getLsbD_xor], s.setReg_keeps (by simp)⟩⟩

/-! ### `V[x]`, then VF: additions and subtractions (R176, R177, R179) -/

/-- Settles O4: the carry is taken from the operands before the sum is written. -/
theorem addRegSumThenCarry : Obligations.AddRegSumThenCarry := fun s _ _ =>
  ⟨_, rfl, by rw [State.setReg_reg_self, carryFlag_eq],
    fun hx => by rw [s.setReg_setReg_reg_of_ne hx, BitVec.toNat_add],
    s.setReg_setReg_keeps (by simp) (by simp)⟩

/-- The comparison of `SUB` reads `V[y]` after the difference was written. With `x` = `y` it then reads 0 in place of the old
value, and the old value is at least both. -/
theorem notBorrowFlag_setReg_sub (s : State) (x y : Reg) :
    notBorrowFlag (s.reg x) ((s.setReg x (s.reg x - s.reg y)).reg y) = notBorrowFlag (s.reg x) (s.reg y) := by
  by_cases hxy : y = x
  · subst hxy
    rw [State.setReg_reg_self, BitVec.sub_self, notBorrowFlag_eq, notBorrowFlag_eq]
    exact (if_pos (Nat.zero_le _)).trans (if_pos le_rfl).symm
  · rw [State.setReg_reg_of_ne _ _ _ _ hxy]

/-- Settles O5: reading `V[y]` late does not change the comparison. -/
theorem subRegDifferenceThenNotBorrow : Obligations.SubRegDifferenceThenNotBorrow := fun s x y =>
  ⟨_, rfl, by rw [State.setReg_reg_self, notBorrowFlag_setReg_sub, notBorrowFlag_eq],
    fun hx => by rw [s.setReg_setReg_reg_of_ne hx, byte_sub_toNat],
    s.setReg_setReg_keeps (by simp) (by simp)⟩

/-- The comparison of `SUBN` reads `V[y]` late as well: with `x` = `y` it is the difference, 0, that is compared. -/
theorem notBorrowFlag_setReg_subn_self (s : State) (x : Reg) :
    notBorrowFlag ((s.setReg x (s.reg x - s.reg x)).reg x) (s.reg x) = if (s.reg x).toNat = 0 then 1 else 0 := by
  rw [State.setReg_reg_self, BitVec.sub_self, notBorrowFlag_eq]
  exact if_congr Nat.le_zero rfl rfl

/-- Settles O7: `V[y]` reads as before unless `x` = `y`. -/
theorem subnRegReverseDifference : Obligations.SubnRegReverseDifference := by
  intro s x y
  refine ⟨_, rfl, fun hxy => ?_, fun hxy => ?_, fun hx => ?_, s.setReg_setReg_keeps (by simp) (by simp)⟩
  · rw [State.setReg_reg_self, State.setReg_reg_of_ne _ _ _ _ hxy.symm, notBorrowFlag_eq]
  · rw [← hxy, State.setReg_reg_self, notBorrowFlag_setReg_subn_self]
  · rw [s.setReg_setReg_reg_of_ne hx, byte_sub_toNat]

/-! ### VF, then `V[x]`: shifts (R178, R180) -/

/-- `VF <- flag`, then `V[x] <- f (V[x])` on `V[x]` as it then stands. -/
def State.flagThenUpdate (s : State) (x : Reg) (flag : Byte) (f : Byte → Byte) : State :=
  (s.setReg vf flag).setReg x (f ((s.setReg vf flag).reg x))

theorem exec_shr (s : State) (x y : Reg) :
    exec (.shr x y) s = .next (s.flagThenUpdate x (lowBitFlag (s.reg x)) (· >>> 1)) := rfl

theorem exec_shl (s : State) (x y : Reg) :
    exec (.shl x y) s = .next (s.flagThenUpdate x (highBitFlag (s.reg x)) (· <<< 1)) := rfl

section
variable (s : State) {x : Reg} {flag : Byte} {f : Byte → Byte}

theorem State.flagThenUpdate_keeps : RegsKept [x, vf] s (s.flagThenUpdate x flag f) ∧
    Frame [.regs] s (s.flagThenUpdate x flag f) := s.setReg_setReg_keeps (by simp) (by simp)

/-- On a register other than VF the update sees its old value, and the flag stands. -/
theorem State.flagThenUpdate_reg_of_ne (h : x ≠ vf) :
    (s.flagThenUpdate x flag f).reg x = f (s.reg x) ∧ (s.flagThenUpdate x flag f).reg vf = flag := by
  refine ⟨?_, s.setReg_setReg_reg_of_ne h.symm⟩
  rw [State.flagThenUpdate, State.setReg_reg_self, State.setReg_reg_of_ne _ _ _ _ h]

/-- On VF the update is of the flag just written, and its old value is lost. -/
theorem State.flagThenUpdate_vf : (s.flagThenUpdate vf flag f).reg vf = f flag := by
  rw [State.flagThenUpdate, State.setReg_reg_self, State.setReg_reg_self]

end

/-- Settles O6: on VF it is the bit shifted out that is halved. -/
theorem shrShiftsVxWhateverY : Obligations.ShrShiftsVxWhateverY := by
  intro s x y
  refine ⟨_, exec_shr s x y, fun hx => ?_, fun hx => ?_, s.flagThenUpdate_keeps⟩
  · obtain ⟨hreg, hvf⟩ := s.flagThenUpdate_reg_of_ne hx
    exact ⟨by rw [hreg, byte_shiftRight_one_toNat], by rw [hvf, lowBitFlag_toNat]⟩
  · rw [hx, State.flagThenUpdate_vf, lowBitFlag_shiftRight_one]

/-- Settles O8: on VF it is the bit shifted out that is doubled. -/
theorem shlShiftsVxWhateverY : Obligations.ShlShiftsVxWhateverY := by
  intro s x y
  refine ⟨_, exec_shl s x y, fun hx => ?_, fun hx => ?_, s.flagThenUpdate_keeps⟩
  · obtain ⟨hreg, hvf⟩ := s.flagThenUpdate_reg_of_ne hx
    exact ⟨by rw [hreg, byte_shiftLeft_one_toNat], by rw [hvf, highBitFlag_toNat]⟩
  · rw [hx, State.flagThenUpdate_vf, highBitFlag_shiftLeft_one_toNat]

end Sys2Proof.Machine

/-! ## Index register, memory transfers and user flags (R200 to R207)

The values put in `I`, each said once; a transfer of a register range, as what stands in an entry the list covers and in one
past it. From these, with the law of a store in range, the obligations follow. -/

namespace Sys2Proof.Machine

/-! ### `I`: loads, the glyph address, the addition (R200 to R202) -/

theorem zextByte_toNat (b : Byte) : (zextByte b).toNat = b.toNat :=
  BitVec.toNat_setWidth_of_le (by decide)

/-- Five times a byte plus 0x50 stays below 2^16, so no part of the byte is lost (D24). -/
theorem glyphAddr_toNat (b : Byte) : (glyphAddr b).toNat = 0x50 + 5 * b.toNat := by
  have hmod : (glyphAddr b).toNat = (b.toNat * 5 + 0x50) % 65536 := by
    simp [glyphAddr, zextByte_toNat, Config.fontBase]
  omega

theorem indexOverflowFlag_eq (bound : Nat) (i : Word) (b : Byte) :
    indexOverflowFlag bound i b = if i.toNat + b.toNat > bound then 1 else 0 := flagByte_decide _

/-- An instruction that only sets `I`, to an address given by its value. -/
theorem exec_setI_spec {i : Instr} {s : State} {addr : Word} {n : Nat} (hexec : exec i s = .next (s.setI addr))
    (hn : addr.toNat = n) : ∃ t, exec i s = .next t ∧ t.i.toNat = n ∧ Frame [.index] s t :=
  ⟨_, hexec, hn, Frame.refl.setI (List.mem_singleton_self _)⟩

/-- Settles O17: the zero-extended `nnn`, and a glyph address that does not wrap. -/
theorem indexLoads : Obligations.IndexLoads := fun s nnn x =>
  ⟨exec_setI_spec rfl (zextNNN_toNat nnn), exec_setI_spec rfl (glyphAddr_toNat (s.reg x))⟩

/-- Settles O18: the sum and the flag are both of the operands as they were before VF is written. -/
theorem addIWrapsAndFlags : Obligations.AddIWrapsAndFlags := fun s x =>
  ⟨_, rfl, by rw [State.setReg_i, State.setI_i, BitVec.toNat_add, zextByte_toNat],
    by rw [State.setReg_reg_self, indexOverflowFlag_eq],
    RegsKept.setReg (fun _ _ => rfl) (List.mem_singleton_self _), (Frame.refl.setI (by simp)).setReg (by simp)⟩

/-! ### Stores in range (R203, R204) -/

/-- Settles O19: the bytes stored are the three digits, hundreds first. -/
theorem ldBcdStoresDigits : Obligations.LdBcdStoresDigits := by
  intro s x hm h
  obtain ⟨hin, hkept, hframe⟩ := State.storeBytes_inRange (bs := bcdDigits (s.reg x)) (a := s.effAddr 0) (.ldBcd x) hm h
  have hlen : (bcdDigits (s.reg x)).length = 3 := rfl
  exact ⟨_, rfl, hin 0 (by omega), hin 1 (by omega), hin 2 (by omega), hkept, hframe⟩

/-- Settles O20: the law of `LD [I], Vx` in range. -/
theorem storeRegsStoresRange : Obligations.StoreRegsStoresRange := fun _ _ => execStoreRegs_inRange

/-! ### Transfers of a register range: an entry the list covers, and one past it (R205 to R207) -/

section
variable {m n : Nat} {v : Vector Byte n} {bs : List Byte} {b : Byte} {j : Nat}

theorem overwriteFrom_zero_getElem (hj : j < n) (h : bs[j]? = some b) : (overwriteFrom v 0 bs)[j] = b := by
  simp [overwriteFrom_getElem, h]

theorem overwriteFrom_zero_getElem_of_length_le (hj : j < n) (h : bs.length ≤ j) : (overwriteFrom v 0 bs)[j] = v[j] := by
  simp [overwriteFrom_getElem, h]

/-- A copy of the first `count` entries of one bank to another. -/
theorem overwriteFrom_firstEntries_getElem {u : Vector Byte m} {count : Nat} (hm : j < m) (hn : j < n) (h : j < count) :
    (overwriteFrom v 0 (firstEntries u count))[j] = u[j] :=
  overwriteFrom_zero_getElem hn (by rw [firstEntries_getElem?, if_pos h, Vector.getElem?_eq_getElem hm])

theorem overwriteFrom_firstEntries_getElem_of_le {u : Vector Byte m} {count : Nat} (hn : j < n) (h : count ≤ j) :
    (overwriteFrom v 0 (firstEntries u count))[j] = v[j] :=
  overwriteFrom_zero_getElem_of_length_le hn (by rw [firstEntries_length]; omega)

end

/-- Settles O21: the bytes read are those from `I` on, and there are x + 1 of them. -/
theorem loadRegsLoadsRange : Obligations.LoadRegsLoadsRange := by
  intro s x h
  obtain ⟨bs, hread⟩ := Memory.readBytes_inRange (size := s.params.memSize) s.mem (a := s.effAddr 0) (n := rangeCount x) (.inr h)
  obtain ⟨hlen, hget⟩ := Memory.readBytes_ok hread
  have hexec : exec (.loadRegs x) s = .next (s.setV (overwriteFrom s.v 0 bs)) := by simp only [exec, execLoadRegs, hread]
  refine ⟨_, hexec, fun k hk => ?_, fun k hk => ?_, Frame.refl.setV (List.mem_singleton_self _)⟩
  · have hcount : k.val < rangeCount x := Nat.lt_succ_of_le hk
    have hbyte : bs[k.val]? = some bs[k.val] := List.getElem?_eq_getElem (hlen ▸ hcount)
    have hreg : (s.setV (overwriteFrom s.v 0 bs)).reg k = bs[k.val] := overwriteFrom_zero_getElem k.isLt hbyte
    exact (hget k.val hcount).trans (hreg ▸ hbyte)
  · exact overwriteFrom_zero_getElem_of_length_le k.isLt (hlen.trans_le hk)

/-- A transfer of flags covers the entries up to the field `x` that the bank has (D12). -/
theorem lt_flagCount_iff {x : Reg} {k : Nat} : k < flagCount x ↔ k ≤ x.val ∧ k < 8 := by
  rw [flagCount]
  omega

/-- Settles O23: a flag up to `x` is one of those copied, a flag above `x` is not. -/
theorem saveFlagsCopiesRange : Obligations.SaveFlagsCopiesRange := by
  refine fun s x => ⟨_, rfl, fun k hk => ?_, fun k hk => ?_, Frame.refl.setUf (List.mem_singleton_self _)⟩
  · exact overwriteFrom_firstEntries_getElem (by omega) k.isLt (lt_flagCount_iff.2 ⟨hk, k.isLt⟩)
  · exact overwriteFrom_firstEntries_getElem_of_le k.isLt (Nat.not_lt.1 fun h => hk.not_ge (lt_flagCount_iff.1 h).1)

/-- Settles O24: the same count the other way; a register above the clamp is not copied to. -/
theorem restoreFlagsCopiesRange : Obligations.RestoreFlagsCopiesRange := by
  refine fun s x => ⟨_, rfl, fun k hk => ?_, fun k hk => ?_, Frame.refl.setV (List.mem_singleton_self _)⟩
  · exact overwriteFrom_firstEntries_getElem k.isLt (by omega) (lt_flagCount_iff.2 ⟨hk, k.isLt⟩)
  · exact overwriteFrom_firstEntries_getElem_of_le k.isLt hk

end Sys2Proof.Machine

/-! ## Timers and random numbers (R220 to R223)

Each instruction is one write, so the rule of the write and its frame settle it. -/

namespace Sys2Proof.Machine

/-- Settles O25: each is one write, of a value read before it. -/
theorem timerMoves : Obligations.TimerMoves := fun s x =>
  ⟨⟨_, rfl, s.setReg_reg_self x s.dt, s.setReg_keeps (List.mem_singleton_self _)⟩,
    ⟨_, rfl, s.setDt_dt (s.reg x), Frame.refl.setDt (List.mem_singleton_self _)⟩,
    ⟨_, rfl, s.setSt_st (s.reg x), Frame.refl.setSt (List.mem_singleton_self _)⟩⟩

/-- Settles O26: the one write is of the masked byte, and the mask goes bit by bit. -/
theorem rndMasksRandomByte : Obligations.RndMasksRandomByte := fun s x kk =>
  ⟨_, rfl, fun _ _ => by rw [State.setReg_reg_self, BitVec.getLsbD_and], s.setReg_keeps (List.mem_singleton_self _)⟩

end Sys2Proof.Machine

/-! ## Display and keypad (R230 to R234, R273, R274, R277, R278)

A draw as a function of the pixels its sprite covers, and the sprite in memory as the list of bytes `DRW` reads; a key wait by
whether a poll of the step differs from the snapshot. From these the obligations about `DRW`, the key skips and the key wait. -/

namespace Sys2Proof.Machine

/-! ### A draw, by the pixels its sprite covers (R273, R274) -/

theorem Display.ext_pixel {d d' : Display} (h : ∀ r c, Display.pixel d r c = Display.pixel d' r c) : d = d' :=
  Vector.ext fun r hr => Vector.ext fun c hc => h ⟨r, hr⟩ ⟨c, hc⟩

section
variable (d : Display) (xc yc : Byte) {bytes : List Byte}

theorem displayDraw_pixel (h : bytes.length ≤ 32) (r : Fin 32) (c : Fin 64) :
    Display.pixel (displayDraw d xc yc bytes).1 r c = (Display.pixel d r c ^^ spriteCovers xc yc 0 bytes r c) :=
  (drawRows_spec xc yc 0 bytes (by omega) (d, false)).1 r c

theorem displayDraw_collides_iff (h : bytes.length ≤ 32) : (displayDraw d xc yc bytes).2 = true ↔
    ∃ r c, spriteCovers xc yc 0 bytes r c = true ∧ Display.pixel d r c = true := by
  simpa [displayDraw] using (drawRows_spec xc yc 0 bytes (by omega) (d, false)).2

/-- Every covered pixel is toggled twice. -/
theorem displayDraw_displayDraw (h : bytes.length ≤ 32) :
    (displayDraw (displayDraw d xc yc bytes).1 xc yc bytes).1 = d := by
  refine Display.ext_pixel fun r c => ?_
  rw [displayDraw_pixel _ _ _ h, displayDraw_pixel _ _ _ h, Bool.xor_assoc, Bool.xor_self, Bool.xor_false]

/-- The second draw finds on exactly the covered pixels that the first found off. -/
theorem displayDraw_displayDraw_collides_iff (h : bytes.length ≤ 32) :
    (displayDraw (displayDraw d xc yc bytes).1 xc yc bytes).2 = true ↔
      ∃ r c, spriteCovers xc yc 0 bytes r c = true ∧ Display.pixel d r c = false := by
  rw [displayDraw_collides_iff _ _ _ h]
  refine exists_congr fun r => exists_congr fun c => and_congr_right fun hcovers => ?_
  rw [displayDraw_pixel _ _ _ h, hcovers, Bool.xor_true, Bool.not_eq_true']

end

theorem byte_ne_zero_iff {b : Byte} : b ≠ 0 ↔ ∃ k < 8, b.getLsbD (7 - k) = true := by
  constructor
  · intro hb
    by_contra hoff
    push Not at hoff
    refine hb (BitVec.eq_of_getLsbD_eq fun i hi => ?_)
    have hbit := hoff (7 - i) (by omega)
    rw [show 7 - (7 - i) = i by omega] at hbit
    simpa using hbit
  · rintro ⟨k, -, hbit⟩ rfl
    simp at hbit

/-- A sprite covers some pixel exactly when it has a set bit. -/
theorem exists_spriteCovers_iff {xc yc : Byte} {bytes : List Byte} :
    (∃ r c, spriteCovers xc yc 0 bytes r c = true) ↔ ∃ b ∈ bytes, b ≠ 0 := by
  constructor
  · rintro ⟨r, c, h⟩
    obtain ⟨j, k, b, hb, hk, hbit, -, -⟩ := (spriteCovers_iff ..).1 h
    exact ⟨b, List.mem_of_getElem? hb, byte_ne_zero_iff.2 ⟨k, hk, hbit⟩⟩
  · rintro ⟨b, hmem, hb⟩
    obtain ⟨j, hj⟩ := List.mem_iff_getElem?.1 hmem
    obtain ⟨k, hk, hbit⟩ := byte_ne_zero_iff.1 hb
    exact ⟨_, _, (spriteCovers_iff ..).2 ⟨j, k, b, hj, hk, hbit, rfl, rfl⟩⟩

/-- Settles O30: a covered pixel is one a set bit stands on; with no collision at the first draw, all of them were off. -/
theorem drawingTwiceRestoresDisplay : Obligations.DrawingTwiceRestoresDisplay := by
  intro d xc yc bytes hlen
  have h32 : bytes.length ≤ 32 := by omega
  refine ⟨displayDraw_displayDraw d xc yc h32, ?bit, fun hfirst => ?noCollision⟩
  case bit =>
    rw [displayDraw_displayDraw_collides_iff d xc yc h32]
    constructor
    · rintro ⟨r, c, hcovers, hoff⟩
      obtain ⟨j, k, b, hb, hk, hbit, rfl, rfl⟩ := (spriteCovers_iff ..).1 hcovers
      exact ⟨j, k, b, _, _, hb, hk, hbit, by simp [pixelRow], rfl, hoff⟩
    · rintro ⟨j, k, b, r, c, hb, hk, hbit, hr, hc, hoff⟩
      refine ⟨r, c, (spriteCovers_iff ..).2 ⟨j, k, b, hb, hk, hbit, Fin.ext ?_, Fin.ext hc⟩, hoff⟩
      simpa [pixelRow] using hr
  case noCollision =>
    have hoff : ∀ r c, spriteCovers xc yc 0 bytes r c = true → Display.pixel d r c = false := fun r c hcovers => by
      by_contra hon
      rw [(displayDraw_collides_iff d xc yc h32).2 ⟨r, c, hcovers, by simpa using hon⟩] at hfirst
      cases hfirst
    rw [displayDraw_displayDraw_collides_iff d xc yc h32, ← exists_spriteCovers_iff (xc := xc) (yc := yc)]
    exact exists_congr fun r => exists_congr fun c => and_iff_left_of_imp (hoff r c)

/-! ### The sprite in memory (R231) -/

/-- The row of a pixel within the sprite, from its display row. -/
theorem eq_pixelRow_iff {yc : Byte} {j : Nat} (hj : j < 32) (r : Fin 32) :
    r = pixelRow yc j ↔ (r.val + 32 - yc.toNat % 32) % 32 = j := by
  simp only [Fin.ext_iff, pixelRow]
  omega

/-- The column of a pixel within the sprite, from its display column. -/
theorem eq_pixelCol_iff {xc : Byte} {k : Nat} (hk : k < 64) (c : Fin 64) :
    c = pixelCol xc k ↔ (c.val + 64 - xc.toNat % 64) % 64 = k := by
  simp only [Fin.ext_iff, pixelCol]
  omega

section
variable {s : State} {xc yc : Byte} {n : Nat}

theorem spriteOn_iff (hn : n ≤ 32) (r : Fin 32) (c : Fin 64) : spriteOn s xc yc n r c = true ↔
    ∃ j k b, j < n ∧ s.readByte (s.effAddr j) = some b ∧ k < 8 ∧ b.getLsbD (7 - k) = true ∧
      r = pixelRow yc j ∧ c = pixelCol xc k := by
  simp only [spriteOn, Bool.and_eq_true, decide_eq_true_eq]
  constructor
  · rintro ⟨⟨hrow, hcol⟩, hbit⟩
    split at hbit
    next b hb =>
      exact ⟨_, _, b, hrow, hb, hcol, hbit, (eq_pixelRow_iff (by omega) r).2 rfl, (eq_pixelCol_iff (by omega) c).2 rfl⟩
    next => cases hbit
  · rintro ⟨j, k, b, hj, hb, hk, hbit, hr, hc⟩
    rw [(eq_pixelRow_iff (by omega) r).1 hr, (eq_pixelCol_iff (by omega) c).1 hc, hb]
    exact ⟨⟨hj, hk⟩, hbit⟩

/-- The bytes read from `I` on are the sprite that `spriteOn` speaks of. -/
theorem spriteOn_eq_spriteCovers {bytes : List Byte} (hn : n ≤ 32)
    (hread : Memory.readBytes s.params.memSize s.mem (s.effAddr 0) n = .ok bytes) :
    spriteOn s xc yc n = spriteCovers xc yc 0 bytes := by
  obtain ⟨hlen, hget⟩ := Memory.readBytes_ok hread
  have hbyte : ∀ j b, bytes[j]? = some b ↔ j < n ∧ s.readByte (s.effAddr j) = some b := fun j b => by
    by_cases hj : j < n
    · exact (hget j hj) ▸ (and_iff_right hj).symm
    · simp [hj, List.getElem?_eq_none (show bytes.length ≤ j by omega)]
  funext r c
  rw [Bool.eq_iff_iff, spriteOn_iff hn, spriteCovers_iff]
  simp only [hbyte, and_assoc, Nat.zero_add]

end

/-! ### `CLS` and `DRW` (R230, R231) -/

theorem flagByte_eq_zero_or_one (b : Bool) : flagByte b = 0 ∨ flagByte b = 1 := by
  cases b <;> decide

theorem flagByte_eq_one_iff (b : Bool) : flagByte b = 1 ↔ b = true := by
  cases b <;> decide

/-- Settles O28: the one write is of the blank display. -/
theorem clsBlanksDisplay : Obligations.ClsBlanksDisplay := fun _ =>
  ⟨_, rfl, Display.pixel_blank, Frame.refl.setDisp (List.mem_singleton_self _)⟩

theorem exec_drw_of_readBytes {s : State} {x y : Reg} {n : BitVec 4} {bytes : List Byte}
    (h : Memory.readBytes s.params.memSize s.mem (s.effAddr 0) n.toNat = .ok bytes) : exec (.drw x y n) s =
      .next ((s.setDisp (displayDraw s.disp (s.reg x) (s.reg y) bytes).1).setReg vf
        (flagByte (displayDraw s.disp (s.reg x) (s.reg y) bytes).2)) := by
  simp only [exec, execDrw, h]

/-- Settles O29: the bytes in range are read, and the draw of them is the draw of the sprite in memory. -/
theorem drwXorsSpriteAndFlagsCollision : Obligations.DrwXorsSpriteAndFlagsCollision := by
  intro s x y n hrange
  obtain ⟨bytes, hread⟩ := Memory.readBytes_inRange (size := s.params.memSize) s.mem (a := s.effAddr 0) (n := n.toNat)
    (by simp only [State.effAddr] at *; omega)
  have hlen : bytes.length ≤ 32 := by rw [(Memory.readBytes_ok hread).1]; omega
  rw [spriteOn_eq_spriteCovers (by omega) hread]
  refine ⟨_, exec_drw_of_readBytes hread, displayDraw_pixel s.disp _ _ hlen, ?_, ?_,
    RegsKept.setReg (fun _ _ => rfl) (List.mem_singleton_self _), (Frame.refl.setDisp (by simp)).setReg (by simp)⟩
  · rw [State.setReg_reg_self]
    exact flagByte_eq_zero_or_one _
  · rw [State.setReg_reg_self, flagByte_eq_one_iff]
    exact displayDraw_collides_iff s.disp _ _ hlen

/-! ### `SKP` and `SKNP` with a key index (R232, R233) -/

section
variable {s : State} {x : Reg} {k : Key}

theorem exec_skp_of_key (h : (s.reg x).toNat = k.val) : exec (.skp x) s = .next (s.skipIf (s.keyDown k)) := by
  simp only [exec, execSkp, h, k.isLt, dite_true]

theorem exec_sknp_of_key (h : (s.reg x).toNat = k.val) : exec (.sknp x) s = .next (s.skipIf (!s.keyDown k)) := by
  simp only [exec, execSknp, h, k.isLt, dite_true]

end

/-- Settles O31: a skip on the key, and one on its complement. -/
theorem keySkips : Obligations.KeySkips := by
  intro s x k h
  refine ⟨exec_skip_spec (exec_skp_of_key h) Iff.rfl, ?_⟩
  have hskip := exec_skip_spec (p := ¬ s.keyDown k = true) (exec_sknp_of_key h) (by simp)
  simpa only [ite_not] using hskip

/-! ### The key that ends a wait (R278) -/

theorem allKeys_eq_finRange : allKeys = List.finRange 16 := by decide

theorem allKeys_getElem {j : Nat} (h : j < allKeys.length) : allKeys[j] = ⟨j, h⟩ := by
  simp [allKeys_eq_finRange]

theorem lowestChange_eq_some {snapshot now : Keys} {k : Key} (hk : now[k.val] ≠ snapshot[k.val])
    (hlow : ∀ j : Key, j.val < k.val → now[j.val] = snapshot[j.val]) : lowestChange snapshot now = some k := by
  refine List.find?_eq_some_iff_getElem.2 ⟨bne_iff_ne.2 hk.symm, k.val, k.isLt, allKeys_getElem k.isLt, fun j hj => ?_⟩
  have hsame := hlow ⟨j, hj.trans k.isLt⟩ hj
  simp [allKeys_getElem, hsame]

section
variable {snapshot : Keys} {polls before : List Keys}

/-- Polls that equal the snapshot are passed over. -/
theorem firstChange_append (h : ∀ p ∈ before, p = snapshot) :
    firstChange snapshot (before ++ polls) = firstChange snapshot polls := by
  induction before with
  | nil => rfl
  | cons p ps ih =>
    have hp : lowestChange snapshot p = none := (lowestChange_eq_none _ _).2 (h p (by simp))
    simp only [List.cons_append, firstChange, hp]
    exact ih fun q hq => h q (by simp [hq])

theorem firstChange_eq_none (h : ∀ p ∈ polls, p = snapshot) : firstChange snapshot polls = none := by
  rw [← List.append_nil polls, firstChange_append h, firstChange]

theorem firstChange_eq_some {now : Keys} {later : List Keys} {k : Key} (hpolls : polls = before ++ now :: later)
    (h : ∀ p ∈ before, p = snapshot) (hk : now[k.val] ≠ snapshot[k.val])
    (hlow : ∀ j : Key, j.val < k.val → now[j.val] = snapshot[j.val]) : firstChange snapshot polls = some k := by
  rw [hpolls, firstChange_append h, firstChange, lowestChange_eq_some hk hlow]

end

/-! ### Going on with a key wait (R234, R35) -/

section
variable {s : State} {w : KeyWait}

theorem State.waitKey_of_unchanged (h : ∀ p ∈ s.inputs.keyPolls, p = w.snapshot) : s.waitKey w = s.setWait (some w) := by
  simp only [State.waitKey, firstChange_eq_none h]

theorem State.waitKey_of_firstChange {k : Key} (h : firstChange w.snapshot s.inputs.keyPolls = some k) :
    s.waitKey w = (s.setWait none).setReg w.x (BitVec.ofNat 8 k.val) := by
  simp only [State.waitKey, h]

theorem State.waitKey_inputs : (s.waitKey w).inputs = s.inputs := by
  obtain ⟨k, -, heq⟩ | ⟨-, heq⟩ := s.waitKey_cases w <;> rw [heq] <;> rfl

/-- A wait that ends has written the key to its register, and touched that register and the wait alone. -/
theorem State.waitKey_ended {k : Key} (h : firstChange w.snapshot s.inputs.keyPolls = some k) :
    ((s.waitKey w).reg w.x).toNat = k.val ∧ (s.waitKey w).wait = none ∧ RegsKept [w.x] s (s.waitKey w) ∧
      Frame [.regs, .wait] s (s.waitKey w) := by
  rw [State.waitKey_of_firstChange h]
  refine ⟨?_, rfl, RegsKept.setReg (fun _ _ => rfl) (List.mem_singleton_self _),
    (Frame.refl.setWait (by simp)).setReg (by simp)⟩
  rw [State.setReg_reg_self, BitVec.toNat_ofNat]
  exact Nat.mod_eq_of_lt (by omega)

end

/-- Settles O33: the key is that of the first poll that differs. -/
theorem keyWaitYieldsLowestChangedKey : Obligations.KeyWaitYieldsLowestChangedKey :=
  fun s x _ _ _ _ hpolls hbefore hk hlow =>
    ⟨_, rfl, State.waitKey_ended (w := { x := x, snapshot := s.inputs.keys }) (firstChange_eq_some hpolls hbefore hk hlow)⟩

/-- Settles O34: without a change the wait alone is written. -/
theorem keyWaitBlocksWithoutChange : Obligations.KeyWaitBlocksWithoutChange := by
  intro s x h
  have hexec : exec (.ldVxKey x) s = .next (s.setWait (some { x := x, snapshot := s.inputs.keys })) :=
    congrArg Host.Outcome.next (State.waitKey_of_unchanged h)
  exact ⟨_, hexec, rfl, Frame.refl.setWait (List.mem_singleton_self _)⟩

/-! ### The timer phase by its values (R266 to R268) -/

/-- A byte counted down by any number, stopping at 0. -/
theorem byte_ofNat_sub_toNat (b : Byte) (n : Nat) : (BitVec.ofNat 8 (b.toNat - n)).toNat = b.toNat - n := by
  rw [BitVec.toNat_ofNat]
  exact Nat.mod_eq_of_lt (by omega)

section
variable {s : State}

@[simp] theorem State.timerPhase_reg (r : Reg) : s.timerPhase.reg r = s.reg r := by
  rw [State.timerPhase_eq]
  rfl

@[simp] theorem State.timerPhase_wait : s.timerPhase.wait = s.wait := by
  rw [State.timerPhase_eq]

theorem State.timerPhase_counts_perCycle (h : s.params.timerMode = .perCycle) :
    s.timerPhase.dt.toNat = s.dt.toNat - 1 ∧ s.timerPhase.st = s.st := by
  rw [State.timerPhase_perCycle h]
  exact ⟨byte_ofNat_sub_toNat s.dt 1, rfl⟩

theorem State.timerPhase_counts_tick60 (h : s.params.timerMode = .tick60) :
    s.timerPhase.dt.toNat = s.dt.toNat - s.inputs.ticks ∧ s.timerPhase.st.toNat = s.st.toNat - s.inputs.ticks := by
  rw [State.timerPhase_tick60 h]
  exact ⟨byte_ofNat_sub_toNat s.dt _, byte_ofNat_sub_toNat s.st _⟩

end

/-! ### The step of a blocked engine (R234(d), (e)) -/

theorem Frame.mono {c c' : List Part} {s t : State} (h : Frame c s t) (hc : c ⊆ c') : Frame c' s t :=
  fun p hp => h p fun hmem => hp (hc hmem)

theorem State.prepare_of_blocked {s : State} {w : KeyWait} (hrun : s.run = .running) (hwait : s.wait = some w) :
    s.prepare = .done (s.waitKey w).endStep := by
  simp only [State.prepare, hrun, hwait]

/-- Settles O35: without a change the step is the end of its inputs; with one, the timer phase comes before. -/
theorem blockedStepGoesOnWaiting : Obligations.BlockedStepGoesOnWaiting := by
  intro s w hrun hwait
  rw [step_of_prepare_done (State.prepare_of_blocked hrun hwait)]
  refine ⟨fun h => ?blocked, fun before later now k hpolls hbefore hk hlow => ?ended⟩
  case blocked =>
    have hsame : s.waitKey w = s := by
      rw [State.waitKey_of_unchanged h, ← hwait]
      rfl
    rw [hsame, State.endStep_of_blocked hrun hwait]
    exact ⟨_, rfl, hwait, Frame.refl.nextInputs (List.mem_singleton_self _)⟩
  case ended =>
    have hchange := firstChange_eq_some hpolls hbefore hk hlow
    obtain ⟨hreg, hnone, hregs, hframe⟩ := State.waitKey_ended hchange
    rw [State.endStep_of_completed ((hframe .run (by simp)).1.trans hrun) hnone]
    have hdt : (s.waitKey w).dt = s.dt := hframe .delay (by simp)
    have hst : (s.waitKey w).st = s.st := hframe .sound (by simp)
    refine ⟨_, rfl, by simpa using hreg, by simpa using hnone, fun r hr => by simpa using hregs r hr,
      fun hmode => ?perCycle, fun hmode => ?tick60,
      ((hframe.mono (by simp)).timerPhase (by simp) (by simp)).nextInputs (by simp)⟩
    case perCycle =>
      rw [← hdt, ← hst]
      exact State.timerPhase_counts_perCycle (by rw [State.waitKey_params, hmode])
    case tick60 =>
      rw [← hdt, ← hst, ← State.waitKey_inputs (w := w)]
      exact State.timerPhase_counts_tick60 (by rw [State.waitKey_params, hmode])

end Sys2Proof.Machine

/-! ## Exceptions: the faults of `Execute`, the refused key index, the illegal opcode, the timer phase (R250 to R268, R279)

For each fault of `Execute` an equation: under its condition the instruction answers `raise`, whose record is that of R255. Then
the one way `exec`, and so a step, is refused. -/

namespace Sys2Proof.Machine

/-! ### The faults of `Execute` (R252 to R254) -/

/-- An instruction that answers `raise` halts with the record of R255. -/
theorem haltsWith_of_raise {i : Instr} {s : State} {reason : HaltReason} {badAddr : Option Nat}
    (h : exec i s = .next (s.raise i reason badAddr)) : HaltsWith i s reason badAddr :=
  ⟨_, h, s.raise_run i reason badAddr, s.raise_halt i reason badAddr⟩

theorem exec_call_of_full {s : State} (nnn : BitVec 12) (h : s.sp.val = 16) :
    exec (.call nnn) s = .next (s.raise (.call nnn) .stackOverflow none) := by
  obtain ⟨-, hpush⟩ | ⟨hlt, -⟩ := s.push_cases s.pc
  · simp only [exec, execCall, hpush]
  · omega

theorem exec_ret_of_empty {s : State} (h : s.sp.val = 0) : exec .ret s = .next (s.raise .ret .stackUnderflow none) := by
  obtain ⟨-, hpop⟩ | ⟨hpos, -⟩ := s.pop_cases
  · simp only [exec, execRet, hpop]
  · omega

/-- Settles O13: the push finds no free slot. -/
theorem callOnFullStackHalts : Obligations.CallOnFullStackHalts := fun _ nnn h =>
  haltsWith_of_raise (exec_call_of_full nnn h)

/-- Settles O15: the pop finds no entry. -/
theorem retOnEmptyStackHalts : Obligations.RetOnEmptyStackHalts := fun _ h =>
  haltsWith_of_raise (exec_ret_of_empty h)

/-- The fault of an access from `I` on, at the lowest of its addresses outside memory, which is `max(I, MEM_SIZE)` (R67, R252). -/
def State.raiseOutOfRange (s : State) (i : Instr) : State :=
  s.raise i .addressOutOfRange (some (max s.i.toNat s.params.memSize))

section
variable {s : State}

theorem State.storeBytes_of_outOfRange (i : Instr) {bs : List Byte} (hpos : 0 < bs.length)
    (h : s.params.memSize < s.i.toNat + bs.length) : s.storeBytes i (s.effAddr 0) bs = s.raiseOutOfRange i := by
  have hwrite : Memory.writeBytes s.params.memSize s.mem (s.effAddr 0) bs = .error (max s.i.toNat s.params.memSize) :=
    Memory.writeBytes_outOfRange s.mem bs hpos h
  simp only [State.storeBytes, hwrite, State.raiseOutOfRange]

theorem exec_ldBcd_of_outOfRange {x : Reg} (h : s.params.memSize ≤ s.i.toNat + 2) :
    exec (.ldBcd x) s = .next (s.raiseOutOfRange (.ldBcd x)) := by
  have hlen : (bcdDigits (s.reg x)).length = 3 := rfl
  rw [exec, execLdBcd, State.storeBytes_of_outOfRange _ (by omega) (by omega)]

theorem exec_storeRegs_of_outOfRange {x : Reg} (h : s.params.memSize ≤ s.i.toNat + x.val) :
    exec (.storeRegs x) s = .next (s.raiseOutOfRange (.storeRegs x)) := by
  have hlen : (firstEntries s.v (rangeCount x)).length = x.val + 1 := by
    rw [firstEntries_length, rangeCount]; omega
  rw [exec, execStoreRegs, State.storeBytes_of_outOfRange _ (by omega) (by omega)]

theorem exec_loadRegs_of_outOfRange {x : Reg} (h : s.params.memSize ≤ s.i.toNat + x.val) :
    exec (.loadRegs x) s = .next (s.raiseOutOfRange (.loadRegs x)) := by
  have hread : Memory.readBytes s.params.memSize s.mem (s.effAddr 0) (rangeCount x) =
      .error (max s.i.toNat s.params.memSize) :=
    Memory.readBytes_outOfRange s.mem (Nat.succ_pos _) (Nat.lt_succ_of_le h)
  simp only [exec, execLoadRegs, hread, State.raiseOutOfRange]

theorem exec_drw_of_outOfRange {x y : Reg} {n : BitVec 4} (hpos : 0 < n.toNat)
    (h : s.params.memSize ≤ s.i.toNat + n.toNat - 1) :
    exec (.drw x y n) s = .next (s.raiseOutOfRange (.drw x y n)) := by
  have hread : Memory.readBytes s.params.memSize s.mem (s.effAddr 0) n.toNat = .error (max s.i.toNat s.params.memSize) :=
    Memory.readBytes_outOfRange s.mem hpos (show s.params.memSize < s.i.toNat + n.toNat by omega)
  simp only [exec, execDrw, hread, State.raiseOutOfRange]

end

/-- Settles O22: each of the four accesses leaves memory, so its first bad address is reported. -/
theorem outOfRangeAccessHalts : Obligations.OutOfRangeAccessHalts := fun _ _ _ _ =>
  ⟨fun h => haltsWith_of_raise (exec_ldBcd_of_outOfRange h), fun h => haltsWith_of_raise (exec_storeRegs_of_outOfRange h),
    fun h => haltsWith_of_raise (exec_loadRegs_of_outOfRange h),
    fun hpos h => haltsWith_of_raise (exec_drw_of_outOfRange hpos h)⟩

/-- Settles O50: what `exec` answers is a fault the instruction can raise, or within its row, which never names `run`. -/
theorem executeHaltsOnlyAsItsInstructionCan : Obligations.ExecuteHaltsOnlyAsItsInstructionCan := by
  intro i s t h
  obtain ⟨reason, badAddr, hcan, rfl, -⟩ | hwithin := exec_raises_or_within h
  · exact .inr ⟨reason, badAddr, hcan, s.raise_run i reason badAddr, s.raise_halt i reason badAddr⟩
  · exact .inl hwithin.run

/-! ### The refused key index (R279) -/

section
variable {s : State} {x : Reg}

theorem exec_skp_of_outOfRange (h : 16 ≤ (s.reg x).toNat) :
    exec (.skp x) s = .refused (.keyIndexOutOfRange (s.reg x)) := by
  simp only [exec, execSkp, Nat.not_lt.2 h, dite_false]

theorem exec_sknp_of_outOfRange (h : 16 ≤ (s.reg x).toNat) :
    exec (.sknp x) s = .refused (.keyIndexOutOfRange (s.reg x)) := by
  simp only [exec, execSknp, Nat.not_lt.2 h, dite_false]

end

/-- Settles O32: neither instruction masks the index. -/
theorem keyIndexAboveFifteenIsRefused : Obligations.KeyIndexAboveFifteenIsRefused := fun _ _ h =>
  ⟨exec_skp_of_outOfRange h, exec_sknp_of_outOfRange h⟩

/-- `exec` is refused by the two key skips alone, and by these only for a key index of 16 or more. -/
theorem exec_refused {i : Instr} {s : State} {r : Refusal} (h : exec i s = .refused r) :
    ∃ x, (i = .skp x ∨ i = .sknp x) ∧ 16 ≤ (s.reg x).toNat ∧ r = .keyIndexOutOfRange (s.reg x) := by
  cases i with
  | skp x =>
    obtain hlt | hge := Nat.lt_or_ge (s.reg x).toNat 16
    · cases (exec_skp_of_key (k := ⟨_, hlt⟩) rfl).symm.trans h
    · cases (exec_skp_of_outOfRange hge).symm.trans h
      exact ⟨x, .inl rfl, hge, rfl⟩
  | sknp x =>
    obtain hlt | hge := Nat.lt_or_ge (s.reg x).toNat 16
    · cases (exec_sknp_of_key (k := ⟨_, hlt⟩) rfl).symm.trans h
    · cases (exec_sknp_of_outOfRange hge).symm.trans h
      exact ⟨x, .inr rfl, hge, rfl⟩
  | ret | call | drw | loadRegs =>
    simp only [exec, execRet, execCall, execDrw, execLoadRegs] at h
    split at h <;> cases h
  | _ => cases h

/-- The end of a step refuses nothing itself. -/
theorem eq_refused_of_endOutcome {o : Host.Outcome State Fault Refusal} {r : Refusal} (h : endOutcome o = .refused r) :
    o = .refused r := by
  cases o with
  | next | fault => cases h
  | refused => exact h

/-- Settles O51: the phases before `Execute` end in a next state, so the refusal is that of `exec`. -/
theorem stepRefusesOnlyKeyIndexes : Obligations.StepRefusesOnlyKeyIndexes := by
  intro s r h
  obtain ⟨t, -, hdone⟩ | ⟨i, t, -, hexec⟩ := step_of_prepare s
  · cases hdone.symm.trans h
  · obtain ⟨x, -, hge, hr⟩ := exec_refused (eq_refused_of_endOutcome (hexec.symm.trans h))
    exact ⟨t.reg x, hge, hr⟩

/-! ### The illegal opcode (R251) -/

/-- Settles O39: the fetch gives the word, the decode reports it, and the step is its halt. -/
theorem illegalOpcodeHalts : Obligations.IllegalOpcodeHalts := by
  intro s hi lo w hready hcode hw hillegal
  have hfetch : s.fetch = .ok w := by
    rw [State.fetch_of_hasCode hcode, BitVec.eq_of_toNat_eq ((wordOfBytes_toNat hi lo).trans hw.symm)]
  have hprepare := State.prepare_of_ready hready
  simp only [State.fetchDecode, hfetch, hillegal] at hprepare
  exact ⟨_, step_of_prepare_done hprepare, rfl, rfl⟩

/-! ### The timer phase (R266 to R268) -/

/-- Settles O27: in `PerCycle` mode the phase is one write, of `DT`. -/
theorem timerPhaseCounts : Obligations.TimerPhaseCounts := by
  refine fun s => ⟨fun h => ?perCycle, fun h => ?tick60⟩
  case perCycle =>
    refine ⟨(State.timerPhase_counts_perCycle h).1, ?_⟩
    rw [State.timerPhase_perCycle h]
    exact Frame.refl.setDt (List.mem_singleton_self _)
  case tick60 =>
    obtain ⟨hdt, hst⟩ := State.timerPhase_counts_tick60 h
    exact ⟨hdt, hst, Frame.refl.timerPhase (by simp) (by simp)⟩

end Sys2Proof.Machine
